-- ==== Sys2Proof/Word.lean ====
section
/-! DEFINITION. The widths of the machine's values (00_scope.md R9, R11). -/

namespace Sys2Proof

/-- A memory byte, a `V` register, a timer: 8 bits, unsigned (R22, R27, R50). -/
abbrev Byte := BitVec 8

/-- An opcode word, `PC`, `I`, a stack slot: 16 bits (R24, R25, R26, R70). -/
abbrev Word := BitVec 16

/-- The 12-bit address field `NNN` (R71). -/
abbrev Addr := BitVec 12

/-- The 4-bit sprite height `N` (R71). -/
abbrev Nibble := BitVec 4

/-- The index of a `V` register: a 4-bit field indexes a 16-entry file, so every value is legal (R72). -/
abbrev Reg := Fin 16

/-- A logical key 0x0 to 0xF (R30). -/
abbrev Key := Fin 16

/-- `V[0xF]`, the only flag (R23). -/
abbrev vf : Reg := 15

end Sys2Proof
end

