-- ==== Sys2Proof/Syntax.lean ====
section
/-! DEFINITION. The instruction set: one constructor per row of spec/opcode_table.json, and that table itself
(30_encoding.md R74). -/

namespace Sys2Proof

/-- The 34 instructions of R74 and the unrecognized word of R76. `shr` and `shl` keep the Y field, which is decoded and
not read (R72), and `unrecognized` keeps its word, so that an instruction determines its opcode word. -/
inductive Instr where
  /-- 00E0 CLS (R120). -/
  | cls
  /-- 00EE RET (R141). -/
  | ret
  /-- 1NNN JP nnn (R142). -/
  | jp (nnn : Addr)
  /-- 2NNN CALL nnn (R143). -/
  | call (nnn : Addr)
  /-- 3XRR SE Vx, rr (R145). -/
  | seImm (x : Reg) (rr : Byte)
  /-- 4XRR SNE Vx, rr (R146). -/
  | sneImm (x : Reg) (rr : Byte)
  /-- 5XY0 SE Vx, Vy (R147). -/
  | seReg (x y : Reg)
  /-- 6XRR LD Vx, rr (R160). -/
  | ldImm (x : Reg) (rr : Byte)
  /-- 7XRR ADD Vx, rr (R161). -/
  | addImm (x : Reg) (rr : Byte)
  /-- 8XY0 LD Vx, Vy (R162). -/
  | ldReg (x y : Reg)
  /-- 8XY1 OR Vx, Vy (R163). -/
  | orReg (x y : Reg)
  /-- 8XY2 AND Vx, Vy (R164). -/
  | andReg (x y : Reg)
  /-- 8XY3 XOR Vx, Vy (R165). -/
  | xorReg (x y : Reg)
  /-- 8XY4 ADD Vx, Vy (R166). -/
  | addReg (x y : Reg)
  /-- 8XY5 SUB Vx, Vy (R167). -/
  | sub (x y : Reg)
  /-- 8XY6 SHR Vx (R168). -/
  | shr (x y : Reg)
  /-- 8XY7 SUBN Vx, Vy (R169). -/
  | subn (x y : Reg)
  /-- 8XYE SHL Vx (R170). -/
  | shl (x y : Reg)
  /-- 9XY0 SNE Vx, Vy (R148). -/
  | sneReg (x y : Reg)
  /-- ANNN LD I, nnn (R190). -/
  | ldI (nnn : Addr)
  /-- BNNN JP V0, nnn (R144). -/
  | jpV0 (nnn : Addr)
  /-- CXKK RND Vx, kk (R175). -/
  | rnd (x : Reg) (kk : Byte)
  /-- DXYN DRW Vx, Vy, n (R122). -/
  | drw (x y : Reg) (n : Nibble)
  /-- EX9E SKP Vx (R210). -/
  | skp (x : Reg)
  /-- EXA1 SKNP Vx (R211). -/
  | sknp (x : Reg)
  /-- FX07 LD Vx, DT (R212). -/
  | ldVxDt (x : Reg)
  /-- FX0A LD Vx, K (R220). -/
  | ldVxK (x : Reg)
  /-- FX15 LD DT, Vx (R213). -/
  | ldDtVx (x : Reg)
  /-- FX18 LD ST, Vx (R214). -/
  | ldStVx (x : Reg)
  /-- FX1E ADD I, Vx (R191). -/
  | addIVx (x : Reg)
  /-- FX29 LD F, Vx (R192). -/
  | ldFVx (x : Reg)
  /-- FX33 LD B, Vx (R193). -/
  | ldBVx (x : Reg)
  /-- FX55 LD [I], Vx (R194). -/
  | ldMemVx (x : Reg)
  /-- FX65 LD Vx, [I] (R195). -/
  | ldVxMem (x : Reg)
  /-- Any other word (R76, R108). -/
  | unrecognized (w : Word)
  deriving DecidableEq, Repr

/-- A row of the opcode map: the word's bits under `mask` are those of `pattern` (R74). -/
structure Row where
  mnemonic : String
  pattern : Word
  mask : Word
  deriving DecidableEq, Repr

/-- The word has the row's fixed bits (R74, R75: the match is exact on every fixed bit). -/
def Row.matches (r : Row) (w : Word) : Bool := w &&& r.mask == r.pattern

/-- Rows of R74 from 00E0 to 7XRR. -/
def opcodeRowsLow : List Row :=
  [⟨"CLS", 0x00E0, 0xFFFF⟩, ⟨"RET", 0x00EE, 0xFFFF⟩, ⟨"JP", 0x1000, 0xF000⟩, ⟨"CALL", 0x2000, 0xF000⟩,
   ⟨"SE_IMM", 0x3000, 0xF000⟩, ⟨"SNE_IMM", 0x4000, 0xF000⟩, ⟨"SE_REG", 0x5000, 0xF00F⟩,
   ⟨"LD_IMM", 0x6000, 0xF000⟩, ⟨"ADD_IMM", 0x7000, 0xF000⟩]

/-- Rows of R74 from 8XY0 to DXYN. -/
def opcodeRowsMid : List Row :=
  [⟨"LD_REG", 0x8000, 0xF00F⟩, ⟨"OR", 0x8001, 0xF00F⟩, ⟨"AND", 0x8002, 0xF00F⟩, ⟨"XOR", 0x8003, 0xF00F⟩,
   ⟨"ADD_REG", 0x8004, 0xF00F⟩, ⟨"SUB", 0x8005, 0xF00F⟩, ⟨"SHR", 0x8006, 0xF00F⟩, ⟨"SUBN", 0x8007, 0xF00F⟩,
   ⟨"SHL", 0x800E, 0xF00F⟩, ⟨"SNE_REG", 0x9000, 0xF00F⟩, ⟨"LD_I", 0xA000, 0xF000⟩,
   ⟨"JP_V0", 0xB000, 0xF000⟩, ⟨"RND", 0xC000, 0xF000⟩, ⟨"DRW", 0xD000, 0xF000⟩]

/-- Rows of R74 from EX9E to FX65. -/
def opcodeRowsHigh : List Row :=
  [⟨"SKP", 0xE09E, 0xF0FF⟩, ⟨"SKNP", 0xE0A1, 0xF0FF⟩, ⟨"LD_VX_DT", 0xF007, 0xF0FF⟩,
   ⟨"LD_VX_K", 0xF00A, 0xF0FF⟩, ⟨"LD_DT_VX", 0xF015, 0xF0FF⟩, ⟨"LD_ST_VX", 0xF018, 0xF0FF⟩,
   ⟨"ADD_I_VX", 0xF01E, 0xF0FF⟩, ⟨"LD_F_VX", 0xF029, 0xF0FF⟩, ⟨"LD_B_VX", 0xF033, 0xF0FF⟩,
   ⟨"LD_MEM_VX", 0xF055, 0xF0FF⟩, ⟨"LD_VX_MEM", 0xF065, 0xF0FF⟩]

/-- The opcode map of R74, its 34 rows in the source's order; a word that matches none is unrecognized (R75, R76). -/
def opcodeTable : List Row := opcodeRowsLow ++ opcodeRowsMid ++ opcodeRowsHigh

/-- The word matches a row of the opcode map. -/
def recognized (w : Word) : Bool := opcodeTable.any (·.matches w)

/-- The mnemonic of an instruction's row (R80). -/
def Instr.mnemonic : Instr → String
  | .cls => "CLS"
  | .ret => "RET"
  | .jp _ => "JP"
  | .call _ => "CALL"
  | .seImm _ _ => "SE_IMM"
  | .sneImm _ _ => "SNE_IMM"
  | .seReg _ _ => "SE_REG"
  | .ldImm _ _ => "LD_IMM"
  | .addImm _ _ => "ADD_IMM"
  | .ldReg _ _ => "LD_REG"
  | .orReg _ _ => "OR"
  | .andReg _ _ => "AND"
  | .xorReg _ _ => "XOR"
  | .addReg _ _ => "ADD_REG"
  | .sub _ _ => "SUB"
  | .shr _ _ => "SHR"
  | .subn _ _ => "SUBN"
  | .shl _ _ => "SHL"
  | .sneReg _ _ => "SNE_REG"
  | .ldI _ => "LD_I"
  | .jpV0 _ => "JP_V0"
  | .rnd _ _ => "RND"
  | .drw _ _ _ => "DRW"
  | .skp _ => "SKP"
  | .sknp _ => "SKNP"
  | .ldVxDt _ => "LD_VX_DT"
  | .ldVxK _ => "LD_VX_K"
  | .ldDtVx _ => "LD_DT_VX"
  | .ldStVx _ => "LD_ST_VX"
  | .addIVx _ => "ADD_I_VX"
  | .ldFVx _ => "LD_F_VX"
  | .ldBVx _ => "LD_B_VX"
  | .ldMemVx _ => "LD_MEM_VX"
  | .ldVxMem _ => "LD_VX_MEM"
  | .unrecognized _ => "UNRECOGNIZED"

end Sys2Proof
end

