-- ==== Sys2Proof/WellFormed.lean ====
section
/-! DEFINITION. Which instruction terms stand for a word. Operand fields are of their exact widths, so every term of a
listed instruction does (30_encoding.md R72, R73); an `unrecognized` term does when its word matches no row (R76). -/

namespace Sys2Proof

/-- The one check: the word of an `unrecognized` term is in no row of the opcode map (R76). -/
def Instr.wf : Instr → Bool
  | .unrecognized w => !recognized w
  | _ => true

end Sys2Proof
end

