-- ==== Sys2Proof/Decode.lean ====
section
/-! DEFINITION. The decoder of 30_encoding.md R75, total on all 65,536 words, and the encoder of R71 and R74. -/

namespace Sys2Proof

/-- `op[15:12]` (R71). -/
def fieldMajor (op : Word) : Nibble := op.extractLsb' 12 4

/-- `X = op[11:8]` (R71). -/
def fieldX (op : Word) : Reg := (op.extractLsb' 8 4).toFin

/-- `Y = op[7:4]` (R71). -/
def fieldY (op : Word) : Reg := (op.extractLsb' 4 4).toFin

/-- `N = op[3:0]` (R71). -/
def fieldN (op : Word) : Nibble := op.extractLsb' 0 4

/-- `RR = KK = op[7:0]` (R71, R18). -/
def fieldKK (op : Word) : Byte := op.extractLsb' 0 8

/-- `NNN = op[11:0]` (R71). -/
def fieldNNN (op : Word) : Addr := op.extractLsb' 0 12

/-- The 0x0 major: 00E0, 00EE, all else unrecognized (R75, R78). -/
def decodeZero (op : Word) : Instr :=
  if op = 0x00E0#16 then .cls else if op = 0x00EE#16 then .ret else .unrecognized op

/-- The 0x8 major by its function nibble (R75). -/
def decodeAlu (op : Word) : Instr :=
  match (fieldN op).toNat with
  | 0x0 => .ldReg (fieldX op) (fieldY op)
  | 0x1 => .orReg (fieldX op) (fieldY op)
  | 0x2 => .andReg (fieldX op) (fieldY op)
  | 0x3 => .xorReg (fieldX op) (fieldY op)
  | 0x4 => .addReg (fieldX op) (fieldY op)
  | 0x5 => .sub (fieldX op) (fieldY op)
  | 0x6 => .shr (fieldX op) (fieldY op)
  | 0x7 => .subn (fieldX op) (fieldY op)
  | 0xE => .shl (fieldX op) (fieldY op)
  | _ => .unrecognized op

/-- The 0xE major by its function byte (R75). -/
def decodeKey (op : Word) : Instr :=
  match (fieldKK op).toNat with
  | 0x9E => .skp (fieldX op)
  | 0xA1 => .sknp (fieldX op)
  | _ => .unrecognized op

/-- The 0xF major by its function byte (R75). -/
def decodeMisc (op : Word) : Instr :=
  match (fieldKK op).toNat with
  | 0x07 => .ldVxDt (fieldX op)
  | 0x0A => .ldVxK (fieldX op)
  | 0x15 => .ldDtVx (fieldX op)
  | 0x18 => .ldStVx (fieldX op)
  | 0x1E => .addIVx (fieldX op)
  | 0x29 => .ldFVx (fieldX op)
  | 0x33 => .ldBVx (fieldX op)
  | 0x55 => .ldMemVx (fieldX op)
  | 0x65 => .ldVxMem (fieldX op)
  | _ => .unrecognized op

/-- `decode(op)` of R75: strict on every fixed bit (R77, D15, log 12). A 4-bit major above 0xE is 0xF. -/
def decode (op : Word) : Instr :=
  match (fieldMajor op).toNat with
  | 0x0 => decodeZero op
  | 0x1 => .jp (fieldNNN op)
  | 0x2 => .call (fieldNNN op)
  | 0x3 => .seImm (fieldX op) (fieldKK op)
  | 0x4 => .sneImm (fieldX op) (fieldKK op)
  | 0x5 => if fieldN op = 0 then .seReg (fieldX op) (fieldY op) else .unrecognized op
  | 0x6 => .ldImm (fieldX op) (fieldKK op)
  | 0x7 => .addImm (fieldX op) (fieldKK op)
  | 0x8 => decodeAlu op
  | 0x9 => if fieldN op = 0 then .sneReg (fieldX op) (fieldY op) else .unrecognized op
  | 0xA => .ldI (fieldNNN op)
  | 0xB => .jpV0 (fieldNNN op)
  | 0xC => .rnd (fieldX op) (fieldKK op)
  | 0xD => .drw (fieldX op) (fieldY op) (fieldN op)
  | 0xE => decodeKey op
  | _ => decodeMisc op

/-- The opcode word of two bytes, the one at the lower address more significant (20_memory.md R51). -/
def wordOfBytes (hi lo : Byte) : Word := hi ++ lo

/-- The two bytes of a word in the order they lie in memory (R51). -/
def bytesOfWord (w : Word) : List Byte := [w.extractLsb' 8 8, w.extractLsb' 0 8]

/-- Why a byte list gives no instruction. -/
inductive DecodeError where
  /-- Fewer than the 2 bytes every instruction has (R70). -/
  | truncated
  deriving DecidableEq, Repr

/-- The instruction at the head of a byte list, and the bytes after it: always 2 bytes (R70). -/
def decodeBytes : List Byte → Except DecodeError (Instr × List Byte)
  | hi :: lo :: rest => .ok (decode (wordOfBytes hi lo), rest)
  | _ => .error .truncated

/-- The instruction the decoder reads from an instruction whose bits are `w`, bit 0 the least significant bit of the one
16-bit word: the word is laid out as its two bytes and given to the decoder. No instruction is longer (R70). -/
def decodeTableWord (nbits w : Nat) : Option Instr :=
  if 16 < nbits then none
  else
    match decodeBytes (bytesOfWord (BitVec.ofNat 16 (w % 2 ^ nbits))) with
    | .ok (i, _) => some i
    | .error _ => none

/-- The 4-bit field of a register index (R72). -/
def regField (r : Reg) : Nibble := BitVec.ofNat 4 r.val

/-- Formats XK and XF: major, X, immediate or function byte (R71). -/
def wordXK (m : Nibble) (x : Reg) (kk : Byte) : Word := (m ++ regField x) ++ kk

/-- Formats XY and XYN: major, X, Y, function or height nibble (R71). -/
def wordXYN (m : Nibble) (x y : Reg) (n : Nibble) : Word := (m ++ regField x) ++ (regField y ++ n)

/-- Format A: major, 12-bit address (R71). -/
def wordA (m : Nibble) (nnn : Addr) : Word := m ++ nnn

/-- The opcode word of an instruction (R71, R74, R80). -/
def encode : Instr → Word
  | .cls => 0x00E0#16
  | .ret => 0x00EE#16
  | .jp nnn => wordA 0x1 nnn
  | .call nnn => wordA 0x2 nnn
  | .seImm x rr => wordXK 0x3 x rr
  | .sneImm x rr => wordXK 0x4 x rr
  | .seReg x y => wordXYN 0x5 x y 0x0
  | .ldImm x rr => wordXK 0x6 x rr
  | .addImm x rr => wordXK 0x7 x rr
  | .ldReg x y => wordXYN 0x8 x y 0x0
  | .orReg x y => wordXYN 0x8 x y 0x1
  | .andReg x y => wordXYN 0x8 x y 0x2
  | .xorReg x y => wordXYN 0x8 x y 0x3
  | .addReg x y => wordXYN 0x8 x y 0x4
  | .sub x y => wordXYN 0x8 x y 0x5
  | .shr x y => wordXYN 0x8 x y 0x6
  | .subn x y => wordXYN 0x8 x y 0x7
  | .shl x y => wordXYN 0x8 x y 0xE
  | .sneReg x y => wordXYN 0x9 x y 0x0
  | .ldI nnn => wordA 0xA nnn
  | .jpV0 nnn => wordA 0xB nnn
  | .rnd x kk => wordXK 0xC x kk
  | .drw x y n => wordXYN 0xD x y n
  | .skp x => wordXK 0xE x 0x9E
  | .sknp x => wordXK 0xE x 0xA1
  | .ldVxDt x => wordXK 0xF x 0x07
  | .ldVxK x => wordXK 0xF x 0x0A
  | .ldDtVx x => wordXK 0xF x 0x15
  | .ldStVx x => wordXK 0xF x 0x18
  | .addIVx x => wordXK 0xF x 0x1E
  | .ldFVx x => wordXK 0xF x 0x29
  | .ldBVx x => wordXK 0xF x 0x33
  | .ldMemVx x => wordXK 0xF x 0x55
  | .ldVxMem x => wordXK 0xF x 0x65
  | .unrecognized w => w

/-- The two bytes of an instruction in memory order (R51, R70). -/
def encodeBytes (i : Instr) : List Byte := bytesOfWord (encode i)

end Sys2Proof
end

