-- ==== Sys2Proof/Config.lean ====
section
/-! DEFINITION. The parameters of 00_scope.md R10. Those that are plain data form the record `Config`, which State
carries unchanged, so that a statement over all states holds for every value of them; the rates are arguments of
`Config.ofRates`, and HostKey and PROGRAM of `start`; the two that are functions are opaque constants, of which nothing can be
proved. -/

namespace Sys2Proof

/-- What State holds for a host key code. The host's own code type is an open parameter (R10, D39) and an argument of `start`
(`Sys2Proof.Machine.State.start`), which turns its codes into these numbers: State is plain data, and only equality of codes is
ever used. DESIGN CHOICE, safe (log 6). -/
abbrev HostKey := Nat

/-- The 80 font bytes, glyph `g` at `5g` to `5g+4` (R37). -/
abbrev Font := Vector Byte 80

/-- The parameters that are plain data (R10, R41). -/
structure Config where
  /-- `P_INSTR`, milliseconds between instruction ticks. -/
  pInstr : Nat
  /-- `P_TIMER`, milliseconds between timer ticks. -/
  pTimer : Nat
  /-- `TRACE_CAP`, the capacity of the trace log. -/
  traceCap : Nat
  /-- `KEYMAP`, the host code of each logical key, fixed at start (R33). -/
  keymap : Vector HostKey 16
  /-- `FONT`, what the loader puts at 0x000 to 0x04F. -/
  font : Font
  deriving DecidableEq, Repr

/-- The period of a gate at 0 Hz, of which the formula of R251 says nothing; free value, safe (log 35). -/
opaque Config.periodAtZeroHz : Nat

/-- `period_ms = 1000 / freq`, in whole milliseconds (R251, D3). -/
def Config.periodMs (freq : Nat) : Nat := if freq = 0 then Config.periodAtZeroHz else 1000 / freq

/-- The default `FONT` of R37: the conventional CHIP-8 font. PRESUMED (the spec takes it from general knowledge, G1),
unsafe (log 5): no statement rests on these bytes. -/
def Config.defaultFont : Font :=
  #v[0xF0, 0x90, 0x90, 0x90, 0xF0,
     0x20, 0x60, 0x20, 0x20, 0x70,
     0xF0, 0x10, 0xF0, 0x80, 0xF0,
     0xF0, 0x10, 0xF0, 0x10, 0xF0,
     0x90, 0x90, 0xF0, 0x10, 0x10,
     0xF0, 0x80, 0xF0, 0x10, 0xF0,
     0xF0, 0x80, 0xF0, 0x90, 0xF0,
     0xF0, 0x10, 0x20, 0x40, 0x40,
     0xF0, 0x90, 0xF0, 0x90, 0xF0,
     0xF0, 0x90, 0xF0, 0x10, 0xF0,
     0xF0, 0x90, 0xF0, 0x90, 0x90,
     0xE0, 0x90, 0xE0, 0x90, 0xE0,
     0xF0, 0x80, 0x80, 0x80, 0xF0,
     0xE0, 0x90, 0x90, 0x90, 0xE0,
     0xF0, 0x80, 0xF0, 0x80, 0xF0,
     0xF0, 0x80, 0xF0, 0x80, 0x80]

/-- `KEYMAP[k] = k`: the key map `State.reset` is started with. DESIGN CHOICE (log 6): the spec gives no default. -/
def Config.defaultKeymap : Vector HostKey 16 :=
  #v[0, 1, 2, 3, 4, 5, 6, 7, 8, 9, 10, 11, 12, 13, 14, 15]

/-- The parameters at the rates `F_INSTR` and `F_TIMER`: the periods are their defaults at these rates, the rest is at its default
(R10, log 7). -/
def Config.ofRates (fInstr fTimer : Nat) : Config where
  pInstr := Config.periodMs fInstr
  pTimer := Config.periodMs fTimer
  traceCap := 100
  keymap := Config.defaultKeymap
  font := Config.defaultFont

/-- The defaults of R10: 500 Hz, 60 Hz, capacity 100 (log 7). -/
def Config.default : Config := Config.ofRates 500 60

/-- `RAND8`: the byte the n-th execution of CXKK draws. No law is known of it (R175, D24); free value, safe (log 3). -/
opaque Config.rand8 : Nat → Byte

/-- `DESCRIBE`: the description text of a recognized opcode word. The spec gives no text (R109, D20); free value,
safe (log 4). -/
opaque Config.describe : Word → String

end Sys2Proof
end

