-- ==== Sys2Proof/Machine/State.lean ====
section
/-! DEFINITION. Everything the spec gives the machine, as plain data (10_state.md R20 to R36, 00_scope.md R15, R16), and
the state after reset (70_reset_and_hazards.md R300). -/

namespace Sys2Proof.Machine

/-- `memory`: the listed bytes, addresses strictly rising, none equal to what an unlisted address reads as (log 32). -/
abbrev Memory := List Host.Cell

/-- The framebuffer: 64 columns of 32 one-bit cells, `fb[x][y]` (R29). Only (x, y) addresses a cell (D38, log 29). -/
abbrev Framebuffer := Vector (Vector Bool 32) 64

/-- Machine State (R20): the record the publisher copies. -/
structure MachineState where
  /-- 4096 bytes (R21). -/
  mem : Memory
  /-- `V[0]` to `V[0xF]` (R22). -/
  v : Vector Byte 16
  /-- The index register `I` (R24). -/
  i : Word
  /-- The program counter (R25). -/
  pc : Word
  /-- The call stack's slots (R26). -/
  stack : Vector Word 16
  /-- The next free slot, 0 to 16 (R26). -/
  sp : Fin 17
  /-- The delay timer (R27). -/
  dt : Byte
  /-- The sound timer (R27). -/
  st : Byte
  /-- Set when 1NNN targets its own address, never cleared (R28). -/
  endloop : Bool
  deriving DecidableEq, Repr

/-- `wait` (R31). -/
inductive Wait where
  /-- Not waiting. -/
  | idle
  /-- `Waiting(r)`: the next key press is written into `V[r]`. -/
  | waiting (r : Reg)
  deriving DecidableEq, Repr

/-- The codes of the fatal runtime errors (R242). -/
inductive FaultCode where
  | stackOverflow
  | stackUnderflow
  | memoryOutOfRange
  | fetchOutOfRange
  | keyIndexOutOfRange
  deriving DecidableEq, Repr

/-- The `info` of a fault record: one labelled value (R242). -/
inductive FaultInfo where
  | sp (n : Nat)
  | addr (n : Nat)
  | pc (n : Nat)
  | index (n : Nat)
  deriving DecidableEq, Repr

/-- The fault record `(code, pc, opcode, info)` of R242; `opcode` is `none` for a fetch fault. -/
structure FaultRecord where
  code : FaultCode
  pc : Word
  opcode : Option Word
  info : FaultInfo
  deriving DecidableEq, Repr

/-- Why the loop stopped (R36). -/
inductive StopReason where
  | stopRequest
  | hostQuit
  deriving DecidableEq, Repr

/-- `run_state` (R36). -/
inductive RunState where
  | running
  | stopped (reason : StopReason)
  | faulted (record : FaultRecord)
  deriving DecidableEq, Repr

/-- The status `read_snapshot()` reports (R268). -/
inductive Status where
  | running
  | paused
  | stopped (reason : StopReason)
  | faulted (record : FaultRecord)
  deriving DecidableEq, Repr

/-- A trace line, held as the two values its text is made of: the address and the opcode word (R109, log 4). -/
structure TraceLine where
  pc : Word
  op : Word
  deriving DecidableEq, Repr

/-- The Snapshot Record (R34). -/
structure Snapshot where
  /-- The trace log, oldest first. -/
  log : List TraceLine
  /-- `pub_state`. -/
  pub : MachineState
  /-- The pause flag, written by the observer only. -/
  pause : Bool
  deriving DecidableEq, Repr

/-- What one `read_snapshot()` returned (R267). -/
structure Reply where
  log : List TraceLine
  pub : MachineState
  status : Status
  deriving DecidableEq, Repr

/-- A host event (R15, R255). -/
inductive HostEvent where
  | keyDown (h : HostKey)
  | keyUp (h : HostKey)
  | quit
  deriving DecidableEq, Repr

/-- The observer's operations on a machine (R262, R264). -/
inductive ObserverOp where
  | setPause (b : Bool)
  | stop
  | readSnapshot
  deriving DecidableEq, Repr

/-- One turn of an agent, the model's own (log 1): the emulation thread's next sub-step, an observer operation, the host
queueing an event, or the host's counter moving on. -/
inductive Turn where
  | thread
  | observer (op : ObserverOp)
  | host (e : HostEvent)
  | elapse (ms : Nat)
  deriving DecidableEq, Repr

/-- The next sub-step of the loop iteration (R250). -/
inductive Phase where
  | s1
  | s2
  | s3
  | s4
  deriving DecidableEq, Repr

/-- The whole machine and the environment it reads. -/
structure State where
  /-- Parameters, never changed (R10, R41, log 7); KEYMAP is R33. -/
  cfg : Config
  /-- Machine State (R20). -/
  ms : MachineState
  /-- The framebuffer (R29). -/
  fb : Framebuffer
  /-- Pressed state of the 16 logical keys (R30). -/
  keys : Vector Bool 16
  /-- The key-wait register (R31). -/
  wait : Wait
  /-- The Snapshot Record (R34). -/
  snap : Snapshot
  /-- The next sub-step of the iteration (R250). -/
  phase : Phase
  /-- The time sample of the current iteration (R250). -/
  now : Nat
  /-- When the instruction gate last fired (R35). -/
  lastInstr : Nat
  /-- When the timer gate last fired (R35). -/
  lastTimer : Nat
  /-- The pause flag as the instruction gate last read it (R35). -/
  pausedSeen : Bool
  /-- A stop request not yet seen by S1 (R266). -/
  stopPending : Bool
  /-- `run_state` (R36). -/
  runState : RunState
  /-- The last framebuffer handed off, if any (R16, R254, log 24). -/
  fbOut : Option Framebuffer
  /-- The answer of the last `read_snapshot()`, if any (R16, R267, log 24). -/
  reply : Option Reply
  /-- Host events queued since the last poll (R250); the event lists of R41 are held here (log 31). -/
  hostQueue : List HostEvent
  /-- The host's millisecond counter (R250, log 2). -/
  clock : Nat
  /-- Milliseconds the counter advances by itself in each iteration (log 2). -/
  pace : Nat
  /-- Which agent moves next; when empty, the emulation thread does (log 1). -/
  turns : List Turn
  /-- RAND8 draws taken so far (log 3). -/
  draws : Nat
  deriving DecidableEq, Repr

/-- The reasons the model's step stops. -/
inductive Fault where
  /-- Raised by `step` when `run_state` has left `Running` and no other agent has a turn: the emulation thread takes no
  further step (R245, R268, I17: stuck). Safe: the machine has no step here either (log 9). -/
  | terminated
  deriving DecidableEq, Repr

/-- The reasons an instruction has no meaning. -/
inductive Refusal where
  /-- Raised by an arm of `exec` whose instruction has no meaning yet; no arm does so. Safe. -/
  | notModelled (mnemonic : String)
  deriving DecidableEq, Repr

/-- Machine State right after `start` with an empty image (R300): memory is the font and zero bytes, which is what
unlisted addresses read as. -/
def MachineState.reset : MachineState where
  mem := []
  v := Vector.replicate 16 0
  i := 0
  pc := 0x200
  stack := Vector.replicate 16 0
  sp := 0
  dt := 0
  st := 0
  endloop := false

/-- The machine right after reset (R300), with the default parameters of R10 and an empty image. A program is loaded by
`State.start` (log 25). DESIGN CHOICE: the values of `turns`, `pace` and `draws` are the model's (log 1, 2, 3), `fbOut` and
`reply` are `none` (log 24), and `hostQueue` is empty: R300 gives no event queue at start, so that no event queued before
`start` reaches the first poll is the model's choice (log 31). -/
def State.reset : State where
  cfg := Config.default
  ms := MachineState.reset
  fb := Vector.replicate 64 (Vector.replicate 32 false)
  keys := Vector.replicate 16 false
  wait := .idle
  snap := { log := [], pub := MachineState.reset, pause := false }
  phase := .s1
  now := 0
  lastInstr := 0
  lastTimer := 0
  pausedSeen := false
  stopPending := false
  runState := .running
  fbOut := none
  reply := none
  hostQueue := []
  clock := 0
  pace := 1
  turns := []
  draws := 0

end Sys2Proof.Machine
end

