-- ==== Sys2Proof/Machine/Ops.lean ====
section
/-! DEFINITION. The named operations over memory, registers, stack and framebuffer, and the fatal runtime error, which
is the only exception the machine has (60_exceptions.md R241). -/

namespace Sys2Proof.Machine

/-- Result of a step or of an instruction's meaning. -/
abbrev Outcome := Host.Outcome State Fault Refusal

/-! ### Memory (20_memory.md) -/

/-- The number of bytes of memory (R50). -/
def memSize : Nat := 4096

/-- What an address that memory does not list reads as: the contents at start, `FONT` at 0x000 to 0x04F and 0x00 above
(R58, R300). -/
def Memory.unlisted (font : Font) (a : Nat) : Byte :=
  if h : a < 80 then font[a] else 0

/-- The byte a cell list gives for an address, if it lists it. -/
def Memory.find (a : Nat) : Memory → Option Byte
  | [] => none
  | (c, b) :: rest => if c = a then some b else Memory.find a rest

/-- The byte at an address. -/
def Memory.read (font : Font) (m : Memory) (a : Nat) : Byte :=
  (Memory.find a m).getD (Memory.unlisted font a)

/-- Put `b` at `a` in a cell list kept sorted, where `u` is what `a` reads as when unlisted: writing `u` removes the
entry. -/
def Memory.put (u : Byte) (a : Nat) (b : Byte) : Memory → Memory
  | [] => if b = u then [] else [(a, b)]
  | (c, x) :: rest =>
    if a < c then (if b = u then (c, x) :: rest else (a, b) :: (c, x) :: rest)
    else if a = c then (if b = u then rest else (a, b) :: rest)
    else (c, x) :: Memory.put u a b rest

/-- Write one byte. -/
def Memory.write (font : Font) (m : Memory) (a : Nat) (b : Byte) : Memory :=
  Memory.put (Memory.unlisted font a) a b m

/-- Write bytes at `a, a+1, ...`, first byte first (`MemWrite` of R55, after its check). -/
def Memory.writeBytes (font : Font) (m : Memory) (a : Nat) : List Byte → Memory
  | [] => m
  | b :: bs => Memory.writeBytes font (Memory.write font m a b) (a + 1) bs

/-- The canonical form: addresses strictly rising and inside memory, no entry equal to what an unlisted address reads
as. -/
abbrev Memory.wf (font : Font) (m : Memory) : Prop :=
  m.Pairwise (fun c d => c.1 < d.1) ∧ ∀ c ∈ m, c.1 < memSize ∧ c.2 ≠ Memory.unlisted font c.1

/-- The byte at an address of the machine's memory. -/
def State.readByte (s : State) (a : Nat) : Byte := Memory.read s.cfg.font s.ms.mem a

/-- `MemRead(a, n)` of R55, after its check: the bytes at `a` to `a + n - 1`, first byte first. -/
def State.readBytes (s : State) (a n : Nat) : List Byte := (List.range n).map fun k => s.readByte (a + k)

/-- `MemWrite(a, n, bs)` of R55, after its check. -/
def State.writeBytes (s : State) (a : Nat) (bs : List Byte) : State :=
  { s with ms.mem := Memory.writeBytes s.cfg.font s.ms.mem a bs }

/-- The big-endian opcode word at `PC` (R51, R102). -/
def State.fetchWord (s : State) : Word :=
  wordOfBytes (s.readByte s.ms.pc.toNat) (s.readByte (s.ms.pc.toNat + 1))

/-- A fetch at `PC` needs `PC` and `PC + 1` inside memory (R57). -/
def State.fetchable (s : State) : Bool := decide (s.ms.pc.toNat ≤ 0xFFE)

/-! ### Registers (10_state.md) -/

/-- `V[x]` (R12, R22). -/
def State.getV (s : State) (x : Reg) : Byte := s.ms.v.get x

/-- `V[x] <- b` (R12, R22). -/
def State.setV (s : State) (x : Reg) (b : Byte) : State := { s with ms.v := s.ms.v.set x.val b }

/-- The register file with `V[i] <- bs[i]` for `i` from `0` to `x`; those above `x` keep their values (R195). -/
def loadBlock (v : Vector Byte 16) (x : Reg) (bs : List Byte) : Vector Byte 16 :=
  Vector.ofFn fun r => if r.val ≤ x.val then bs.getD r.val 0 else v.get r

/-- `for i in 0 .. X: V[i] <- bs[i]` (R195). -/
def State.loadV (s : State) (x : Reg) (bs : List Byte) : State := { s with ms.v := loadBlock s.ms.v x bs }

/-- `I <- w` (R24). -/
def State.setI (s : State) (w : Word) : State := { s with ms.i := w }

/-- `PC <- w` (R12). -/
def State.jump (s : State) (w : Word) : State := { s with ms.pc := w }

/-- `PC <- PC +_16 2`: the pre-increment, and once more a skip (40_execution_cycle.md R103). -/
def State.advance (s : State) : State := s.jump (s.ms.pc + 2)

/-- A skip: a further `PC += 2` when the condition holds (R17, R311). -/
def State.skipIf (s : State) (c : Bool) : State := if c then s.advance else s

/-- `DT <- b` (R27). -/
def State.setDt (s : State) (b : Byte) : State := { s with ms.dt := b }

/-- `ST <- b` (R27). -/
def State.setSt (s : State) (b : Byte) : State := { s with ms.st := b }

/-- `endloop <- true` when the condition holds; nothing clears it (R28, D18, log 16). -/
def State.markEndloop (s : State) (c : Bool) : State := { s with ms.endloop := s.ms.endloop || c }

/-- `wait <- Waiting(x)` (R31). -/
def State.startWait (s : State) (x : Reg) : State := { s with wait := .waiting x }

/-! ### Call stack (R26) -/

/-- Stack slot `k`. -/
def State.slot (s : State) (k : Fin 16) : Word := s.ms.stack.get k

/-- `stack[SP] <- w; SP <- SP + 1`, after the check `SP ≠ 16` (42_control_flow.md R143). -/
def State.push (s : State) (w : Word) : State :=
  if h : s.ms.sp.val < 16 then
    { s with ms.stack := s.ms.stack.set s.ms.sp.val w, ms.sp := ⟨s.ms.sp.val + 1, by omega⟩ }
  else s

/-- `SP <- SP - 1; PC <- stack[SP]`, after the check `SP ≠ 0` (R141); the slot keeps its value. -/
def State.popPc (s : State) : State :=
  if h : 0 < s.ms.sp.val then
    { s with ms.sp := ⟨s.ms.sp.val - 1, by omega⟩, ms.pc := s.ms.stack.get ⟨s.ms.sp.val - 1, by omega⟩ }
  else s

/-! ### Framebuffer (41_display.md) -/

/-- `fb[x][y]` (R12). -/
def Framebuffer.cell (fb : Framebuffer) (x : Fin 64) (y : Fin 32) : Bool := (fb.get x).get y

/-- `fb[x][y] <- fb[x][y] XOR 1`. -/
def Framebuffer.toggle (fb : Framebuffer) (x : Fin 64) (y : Fin 32) : Framebuffer :=
  fb.set x.val ((fb.get x).set y.val (!fb.cell x y))

/-- Every cell 0 (R120). -/
def Framebuffer.blank : Framebuffer := Vector.replicate 64 (Vector.replicate 32 false)

/-- The column offsets of a row byte's set bits, most significant bit first: bit `7 - col` is column `col` (R121). -/
def setColumns (b : Byte) : List Nat := (List.range 8).filter fun col => b.getLsbD (7 - col)

/-- The cell of column `col` and row `row` of a sprite at `(x0, y0)`: coordinates wrap and never clip (R124). -/
def spriteCell (x0 y0 : Byte) (col row : Nat) : Fin 64 × Fin 32 :=
  (Fin.ofNat 64 (x0.toNat + col), Fin.ofNat 32 (y0.toNat + row))

/-- The cells a sprite's set bits touch, row by row from `row` on, in drawing order (R121, R122). -/
def spriteCells (x0 y0 : Byte) (row : Nat) : List Byte → List (Fin 64 × Fin 32)
  | [] => []
  | b :: rows => (setColumns b).map (fun col => spriteCell x0 y0 col row) ++ spriteCells x0 y0 (row + 1) rows

/-- One touched cell: the flag takes the maximum with the cell's value before its XOR (R122, R123). -/
def touchCell (acc : Framebuffer × Bool) (c : Fin 64 × Fin 32) : Framebuffer × Bool :=
  (acc.1.toggle c.1 c.2, acc.2 || acc.1.cell c.1 c.2)

/-- The framebuffer and the collision flag after a sprite is drawn (R122). -/
def Framebuffer.draw (fb : Framebuffer) (x0 y0 : Byte) (rows : List Byte) : Framebuffer × Bool :=
  (spriteCells x0 y0 0 rows).foldl touchCell (fb, false)

/-- `fb <- g`. -/
def State.setFb (s : State) (g : Framebuffer) : State := { s with fb := g }

/-! ### The fatal runtime error (R106, R241, R242) -/

/-- `run_state <- Faulted(record)` and nothing else changes: `PC` is still `pc0`, no trace, no publish (log 9). -/
def State.raise (s : State) (code : FaultCode) (opcode : Option Word) (info : FaultInfo) : State :=
  { s with runState := .faulted { code := code, pc := s.ms.pc, opcode := opcode, info := info } }

/-- The number of a fault code (R242, D11). -/
def FaultCode.number : FaultCode → Nat
  | .stackOverflow => 1
  | .stackUnderflow => 2
  | .memoryOutOfRange => 3
  | .fetchOutOfRange => 4
  | .keyIndexOutOfRange => 5

/-! ### The random draw (43_register_alu.md R175) -/

/-- The next RAND8 draw (log 3). -/
def State.nextRand (s : State) : Byte := Config.rand8 s.draws

/-- One draw has been taken. -/
def State.drawTaken (s : State) : State := { s with draws := s.draws + 1 }

end Sys2Proof.Machine
end

