-- ==== Sys2Proof/Machine/Flags.lean ====
section
/-! DEFINITION. The VF computations of 43_register_alu.md and the two statement orders of its 8XYn rules (R151). -/

namespace Sys2Proof.Machine

/-- A flag value, 0 or 1. -/
def flagByte (c : Bool) : Byte := if c then 1 else 0

/-- 8XY4: the exact sum is above 255 (R166). -/
def carryFlag (a b : Byte) : Byte := flagByte (decide (255 < a.toNat + b.toNat))

/-- 8XY5 and 8XY7: strictly greater (R167, R169, I6). -/
def greaterFlag (a b : Byte) : Byte := flagByte (decide (b.toNat < a.toNat))

/-- 8XY6: the bit shifted out, old bit 0 (R168). -/
def lowBitFlag (a : Byte) : Byte := a &&& 1

/-- 8XYE: the bit shifted out, old bit 7 (R170). -/
def highBitFlag (a : Byte) : Byte := a >>> 7

/-- `V[x] <- r; V[0xF] <- 0`: the bitwise rows, VF last (R163 to R165, C2). -/
def State.writeThenClearVf (s : State) (x : Reg) (r : Byte) : State := (s.setV x r).setV vf 0

/-- `V[0xF] <- flag; V[x] <- result`, the result read from the registers as the flag write left them (R151, D13, log 10). -/
def State.flagThenWrite (s : State) (flag : Byte) (x : Reg) (result : State → Byte) : State :=
  (s.setV vf flag).setV x (result (s.setV vf flag))

end Sys2Proof.Machine
end

