-- ==== Sys2Proof/Machine/Alu.lean ====
section
/-! DEFINITION. The register, arithmetic and random instructions (43_register_alu.md). -/

namespace Sys2Proof.Machine

/-- 6XRR LD Vx, rr (R160). -/
def execLdImm (x : Reg) (rr : Byte) (s : State) : Outcome := .next (s.advance.setV x rr)

/-- 7XRR ADD Vx, rr (R161): no flag. -/
def execAddImm (x : Reg) (rr : Byte) (s : State) : Outcome := .next (s.advance.setV x (s.getV x + rr))

/-- 8XY0 LD Vx, Vy (R162). -/
def execLdReg (x y : Reg) (s : State) : Outcome := .next (s.advance.setV x (s.getV y))

/-- 8XY1 OR Vx, Vy (R163). -/
def execOrReg (x y : Reg) (s : State) : Outcome := .next (s.advance.writeThenClearVf x (s.getV x ||| s.getV y))

/-- 8XY2 AND Vx, Vy (R164). -/
def execAndReg (x y : Reg) (s : State) : Outcome := .next (s.advance.writeThenClearVf x (s.getV x &&& s.getV y))

/-- 8XY3 XOR Vx, Vy (R165). -/
def execXorReg (x y : Reg) (s : State) : Outcome := .next (s.advance.writeThenClearVf x (s.getV x ^^^ s.getV y))

/-- 8XY4 ADD Vx, Vy (R166). -/
def execAddReg (x y : Reg) (s : State) : Outcome :=
  .next (s.advance.flagThenWrite (carryFlag (s.getV x) (s.getV y)) x fun t => t.getV x + t.getV y)

/-- 8XY5 SUB Vx, Vy (R167). -/
def execSub (x y : Reg) (s : State) : Outcome :=
  .next (s.advance.flagThenWrite (greaterFlag (s.getV x) (s.getV y)) x fun t => t.getV x - t.getV y)

/-- 8XY6 SHR Vx (R168): Y is not read. -/
def execShr (x _y : Reg) (s : State) : Outcome :=
  .next (s.advance.flagThenWrite (lowBitFlag (s.getV x)) x fun t => t.getV x >>> 1)

/-- 8XY7 SUBN Vx, Vy (R169). -/
def execSubn (x y : Reg) (s : State) : Outcome :=
  .next (s.advance.flagThenWrite (greaterFlag (s.getV y) (s.getV x)) x fun t => t.getV y - t.getV x)

/-- 8XYE SHL Vx (R170): Y is not read. -/
def execShl (x _y : Reg) (s : State) : Outcome :=
  .next (s.advance.flagThenWrite (highBitFlag (s.getV x)) x fun t => t.getV x <<< 1)

/-- CXKK RND Vx, kk (R175): one fresh draw. -/
def execRnd (x : Reg) (kk : Byte) (s : State) : Outcome :=
  .next (s.advance.drawTaken.setV x (s.nextRand &&& kk))

end Sys2Proof.Machine
end

