-- ==== Sys2Proof/Machine/Operands.lean ====
section
/-! DEFINITION. The operand forms: the 12-bit address, the block at `I`, the register block `V[0..X]`, the key index
(30_encoding.md R72, R73; 20_memory.md R55, R56; 45_timers_keys.md R210). -/

namespace Sys2Proof.Machine

/-- `zext_16(NNN)` (R73). -/
def addrWord (nnn : Addr) : Word := nnn.setWidth 16

/-- `I` as an exact address (R56, D9, log 13). -/
def State.addrI (s : State) : Nat := s.ms.i.toNat

/-- An access of `n` bytes at `I` touches an address above 0xFFF; one of 0 bytes never does (R55, R56). -/
def State.blockOutside (s : State) (n : Nat) : Bool := decide (0 < n ∧ 0xFFF < s.addrI + n - 1)

/-- The fatal error of such an access: `info` is the highest address touched (R242). -/
def State.raiseMemory (s : State) (n : Nat) (opcode : Word) : State :=
  s.raise .memoryOutOfRange (some opcode) (.addr (s.addrI + n - 1))

/-- The number of registers of the block `V[0..X]` (R194, R195). -/
def blockLen (x : Reg) : Nat := x.val + 1

/-- The values `V[0], V[1], ..., V[X]` (R194). -/
def State.regBlock (s : State) (x : Reg) : List Byte := s.ms.v.toList.take (blockLen x)

/-- `[v div 100, (v div 10) mod 10, v mod 10]` (R193). -/
def bcdDigits (v : Byte) : List Byte :=
  [BitVec.ofNat 8 (v.toNat / 100), BitVec.ofNat 8 (v.toNat / 10 % 10), BitVec.ofNat 8 (v.toNat % 10)]

/-- `V[X] > 0xF`: no logical key has that index (R210, D12, log 14). -/
def State.keyOutside (s : State) (x : Reg) : Bool := decide (0xF < (s.getV x).toNat)

/-- The fatal error of such an index (R242). -/
def State.raiseKey (s : State) (x : Reg) (opcode : Word) : State :=
  s.raise .keyIndexOutOfRange (some opcode) (.index (s.getV x).toNat)

/-- `keys[V[X]]`, after its check. -/
def State.keyPressed (s : State) (x : Reg) : Bool := s.keys.get (Fin.ofNat 16 (s.getV x).toNat)

end Sys2Proof.Machine
end

