-- ==== Sys2Proof/Machine/Control.lean ====
section
/-! DEFINITION. The control-flow instructions and the unrecognized word (42_control_flow.md, 40_execution_cycle.md R108). -/

namespace Sys2Proof.Machine

/-- 00EE RET (R141). -/
def execRet (s : State) : Outcome :=
  if s.ms.sp.val = 0 then .next (s.raise .stackUnderflow (some (encode .ret)) (.sp 0))
  else .next s.advance.popPc

/-- 1NNN JP nnn (R142): `endloop` is set when the target is the instruction's own address `pc0`. -/
def execJp (nnn : Addr) (s : State) : Outcome :=
  .next ((s.advance.markEndloop (decide (addrWord nnn = s.ms.pc))).jump (addrWord nnn))

/-- 2NNN CALL nnn (R143): the pre-incremented `PC` is pushed (D34, log 21). -/
def execCall (nnn : Addr) (s : State) : Outcome :=
  if s.ms.sp.val = 16 then .next (s.raise .stackOverflow (some (encode (.call nnn))) (.sp 16))
  else .next ((s.advance.push s.advance.ms.pc).jump (addrWord nnn))

/-- BNNN JP V0, nnn (R144); it never sets `endloop` (C8). -/
def execJpV0 (nnn : Addr) (s : State) : Outcome :=
  .next (s.advance.jump (addrWord nnn + (s.getV 0).setWidth 16))

/-- 3XRR SE Vx, rr (R145). -/
def execSeImm (x : Reg) (rr : Byte) (s : State) : Outcome := .next (s.advance.skipIf (s.getV x == rr))

/-- 4XRR SNE Vx, rr (R146). -/
def execSneImm (x : Reg) (rr : Byte) (s : State) : Outcome := .next (s.advance.skipIf (s.getV x != rr))

/-- 5XY0 SE Vx, Vy (R147). -/
def execSeReg (x y : Reg) (s : State) : Outcome := .next (s.advance.skipIf (s.getV x == s.getV y))

/-- 9XY0 SNE Vx, Vy (R148). -/
def execSneReg (x y : Reg) (s : State) : Outcome := .next (s.advance.skipIf (s.getV x != s.getV y))

/-- Any unrecognized word: nothing beyond the pre-increment (R108). -/
def execUnrecognized (_w : Word) (s : State) : Outcome := .next s.advance

end Sys2Proof.Machine
end

