-- ==== Sys2Proof/Machine/Display.lean ====
section
/-! DEFINITION. The display instructions (41_display.md). -/

namespace Sys2Proof.Machine

/-- 00E0 CLS (R120). -/
def execCls (s : State) : Outcome := .next (s.advance.setFb Framebuffer.blank)

/-- The draw of DXYN after its check: coordinates and sprite are read once, VF is written once, last (R122, R125, D14,
log 11). -/
def State.drawSprite (s : State) (x y : Reg) (n : Nibble) : State :=
  let drawn := s.fb.draw (s.getV x) (s.getV y) (s.readBytes s.addrI n.toNat)
  (s.setFb drawn.1).setV vf (flagByte drawn.2)

/-- DXYN DRW Vx, Vy, n (R122). -/
def execDrw (x y : Reg) (n : Nibble) (s : State) : Outcome :=
  if s.blockOutside n.toNat then .next (s.raiseMemory n.toNat (encode (.drw x y n)))
  else .next (s.advance.drawSprite x y n)

end Sys2Proof.Machine
end

