-- ==== Sys2Proof/Machine/Index.lean ====
section
/-! DEFINITION. The index and memory instructions (44_index_memory.md). None of FX33, FX55, FX65 changes `I` (D16, log 15). -/

namespace Sys2Proof.Machine

/-- ANNN LD I, nnn (R190). -/
def execLdI (nnn : Addr) (s : State) : Outcome := .next (s.advance.setI (addrWord nnn))

/-- FX1E ADD I, Vx (R191): modulo 2^16, no flag (D17, log 15). -/
def execAddIVx (x : Reg) (s : State) : Outcome := .next (s.advance.setI (s.ms.i + (s.getV x).setWidth 16))

/-- FX29 LD F, Vx (R192): `V[X]` is not reduced to its low nibble. -/
def execLdFVx (x : Reg) (s : State) : Outcome := .next (s.advance.setI ((s.getV x).setWidth 16 * 5))

/-- FX33 LD B, Vx (R193). -/
def execLdBVx (x : Reg) (s : State) : Outcome :=
  if s.blockOutside 3 then .next (s.raiseMemory 3 (encode (.ldBVx x)))
  else .next (s.advance.writeBytes s.addrI (bcdDigits (s.getV x)))

/-- FX55 LD [I], Vx (R194). -/
def execLdMemVx (x : Reg) (s : State) : Outcome :=
  if s.blockOutside (blockLen x) then .next (s.raiseMemory (blockLen x) (encode (.ldMemVx x)))
  else .next (s.advance.writeBytes s.addrI (s.regBlock x))

/-- FX65 LD Vx, [I] (R195). -/
def execLdVxMem (x : Reg) (s : State) : Outcome :=
  if s.blockOutside (blockLen x) then .next (s.raiseMemory (blockLen x) (encode (.ldVxMem x)))
  else .next (s.advance.loadV x (s.readBytes s.addrI (blockLen x)))

end Sys2Proof.Machine
end

