-- ==== Sys2Proof/Machine/Keys.lean ====
section
/-! DEFINITION. The key and timer instructions (45_timers_keys.md). -/

namespace Sys2Proof.Machine

/-- EX9E SKP Vx (R210). -/
def execSkp (x : Reg) (s : State) : Outcome :=
  if s.keyOutside x then .next (s.raiseKey x (encode (.skp x)))
  else .next (s.advance.skipIf (s.keyPressed x))

/-- EXA1 SKNP Vx (R211). -/
def execSknp (x : Reg) (s : State) : Outcome :=
  if s.keyOutside x then .next (s.raiseKey x (encode (.sknp x)))
  else .next (s.advance.skipIf (!s.keyPressed x))

/-- FX07 LD Vx, DT (R212). -/
def execLdVxDt (x : Reg) (s : State) : Outcome := .next (s.advance.setV x s.ms.dt)

/-- FX15 LD DT, Vx (R213). -/
def execLdDtVx (x : Reg) (s : State) : Outcome := .next (s.advance.setDt (s.getV x))

/-- FX18 LD ST, Vx (R214). -/
def execLdStVx (x : Reg) (s : State) : Outcome := .next (s.advance.setSt (s.getV x))

/-- FX0A LD Vx, K (R220): it completes at once; `V[X]` is written by the key press (R222). -/
def execLdVxK (x : Reg) (s : State) : Outcome := .next (s.advance.startWait x)

end Sys2Proof.Machine
end

