-- ==== Sys2Proof/Machine/Publisher.lean ====
section
/-! DEFINITION. state_snapshot_publisher: the trace line's text, the publish section, the status and the snapshot read
(40_execution_cycle.md R109, 60_exceptions.md R259 to R268). -/

namespace Sys2Proof.Machine

/-- The sixteen uppercase hexadecimal digits (R109). -/
def hexDigits : List Char :=
  ['0', '1', '2', '3', '4', '5', '6', '7', '8', '9', 'A', 'B', 'C', 'D', 'E', 'F']

/-- The digit of a 4-bit value. -/
def hexDigit (n : Nat) : Char := hexDigits.getD (n % 16) '0'

/-- `hex4(v)`: exactly four uppercase digits, zero-padded (R109). -/
def hex4 (w : Word) : List Char :=
  [hexDigit (w.toNat / 4096), hexDigit (w.toNat / 256), hexDigit (w.toNat / 16), hexDigit w.toNat]

/-- The description: the fixed text for an unrecognized word, `DESCRIBE(op)` otherwise (R108, R109). -/
def describeWord (op : Word) : String :=
  if recognized op then Config.describe op else "unknown/unimplemented instruction"

/-- The line's text, `hex4(pc0) ++ ": " ++ hex4(op) ++ " - " ++ description` (R109). -/
def TraceLine.text (l : TraceLine) : String :=
  String.ofList (hex4 l.pc ++ [':', ' '] ++ hex4 l.op ++ [' ', '-', ' '] ++ (describeWord l.op).toList)

/-- The line is not appended: `endloop` is set and it equals the last entry (R260). Equal lines are equal texts. -/
def State.suppressed (s : State) (l : TraceLine) : Bool :=
  s.ms.endloop && decide (s.snap.log.getLast? = some l)

/-- The log with a line appended, the oldest evicted beyond the capacity (R259, R260). -/
def appendLine (cap : Nat) (log : List TraceLine) (l : TraceLine) : List TraceLine :=
  if cap < (log ++ [l]).length then (log ++ [l]).drop 1 else log ++ [l]

/-- `publish(line)` of R260, one critical section: append unless suppressed, then copy Machine State. -/
def State.publish (s : State) (l : TraceLine) : State :=
  { s with
    snap.log := if s.suppressed l then s.snap.log else appendLine s.cfg.traceCap s.snap.log l
    snap.pub := s.ms }

/-- The reported status (R268). -/
def State.status (s : State) : Status :=
  match s.runState with
  | .running => if s.snap.pause then .paused else .running
  | .stopped r => .stopped r
  | .faulted r => .faulted r

/-- `run_state = Running`. -/
def State.isRunning (s : State) : Bool := decide (s.runState = .running)

end Sys2Proof.Machine
end

