-- ==== Sys2Proof/Machine/Observer.lean ====
section
/-! DEFINITION. The observer's control surface (60_exceptions.md R264 to R267). -/

namespace Sys2Proof.Machine

/-- `set_pause(b)`: no effect once `run_state` is not `Running` (R265). -/
def State.setPause (s : State) (b : Bool) : State := if s.isRunning then { s with snap.pause := b } else s

/-- `stop()`: the request is pending until the next S1, and its caller blocks until then (`State.stopCallerBlocked`); on an
ended machine it returns at once (R266). DESIGN CHOICE: R266 leaves open whether a `stop()` after the end still sets
`stop_pending`; here it leaves it as it is (log 34). -/
def State.requestStop (s : State) : State := if s.isRunning then { s with stopPending := true } else s

/-- The caller of `stop()` is blocked: it asked, and the loop has not ended (R266). Its next operation waits, which
`State.nextTurn` sees to (log 30). -/
def State.stopCallerBlocked (s : State) : Bool := s.stopPending && s.isRunning

/-- `read_snapshot()`: log, copy and status of one critical section, also after the loop has ended (R267). -/
def State.readSnapshot (s : State) : State :=
  { s with reply := some { log := s.snap.log, pub := s.snap.pub, status := s.status } }

/-- One observer operation (R262). -/
def State.observe (s : State) : ObserverOp → State
  | .setPause b => s.setPause b
  | .stop => s.requestStop
  | .readSnapshot => s.readSnapshot

end Sys2Proof.Machine
end

