-- ==== Sys2Proof/Machine/Latch.lean ====
section
/-! DEFINITION. key_input_latch: host key events and the key wait (45_timers_keys.md R221 to R226), and the quit event
(60_exceptions.md R256). -/

namespace Sys2Proof.Machine

/-- The logical keys in the order of their indices. -/
def allKeys : List Key := [0, 1, 2, 3, 4, 5, 6, 7, 8, 9, 10, 11, 12, 13, 14, 15]

/-- The logical key a host code matches: the lowest index whose KEYMAP entry is the code (R224, D23, log 18). `K` is the host's
type of key codes, of which only equality is used (D39). -/
def keyOf {K : Type} [DecidableEq K] (keymap : Vector K 16) (h : K) : Option Key :=
  allKeys.find? fun k => decide (keymap.get k = h)

/-- What the model holds for a host's code: the index it matches in KEYMAP, and 16 if it matches none (log 6). -/
def heldCode {K : Type} [DecidableEq K] (keymap : Vector K 16) (h : K) : HostKey :=
  match keyOf keymap h with
  | some k => k.val
  | none => 16

/-- What the model holds for a host's KEYMAP (log 6). -/
def heldKeymap {K : Type} [DecidableEq K] (keymap : Vector K 16) : Vector HostKey 16 :=
  ⟨(allKeys.map fun k => heldCode keymap (keymap.get k)).toArray, rfl⟩

/-- A host event with the host's own code type (R15, D39). -/
inductive HostEventOf (K : Type) where
  | keyDown (h : K)
  | keyUp (h : K)
  | quit
  deriving DecidableEq, Repr

/-- What the model's queue holds for a host's event (log 6). -/
def heldEvent {K : Type} [DecidableEq K] (keymap : Vector K 16) : HostEventOf K → HostEvent
  | .keyDown h => .keyDown (heldCode keymap h)
  | .keyUp h => .keyUp (heldCode keymap h)
  | .quit => .quit

/-- `keys[k] <- b` (R221). -/
def State.setKey (s : State) (k : Key) (b : Bool) : State := { s with keys := s.keys.set k.val b }

/-- The key index as the 8-bit value written to `V[r]` (R222). -/
def keyByte (k : Key) : Byte := BitVec.ofNat 8 k.val

/-- A key-press edge resolves a pending wait: `V[r] <- k; wait <- Idle`; no trace, no publish (R222, D21, log 17). -/
def State.resolveWait (s : State) (k : Key) : State :=
  match s.wait with
  | .idle => s
  | .waiting r => { s.setV r (keyByte k) with wait := .idle }

/-- `KeyDown(h)`: a code in no entry changes nothing (R221, R224). -/
def State.keyDown (s : State) (h : HostKey) : State :=
  match keyOf s.cfg.keymap h with
  | none => s
  | some k => (s.setKey k true).resolveWait k

/-- `KeyUp(h)`: never affects the wait (R221, R223). -/
def State.keyUp (s : State) (h : HostKey) : State :=
  match keyOf s.cfg.keymap h with
  | none => s
  | some k => s.setKey k false

/-- The host-event poll: events in delivery order; `Quit` ends the loop at once and drops the rest (R255, R256, R247). -/
def State.pollEvents (s : State) : List HostEvent → State
  | [] => s
  | .keyDown h :: es => (s.keyDown h).pollEvents es
  | .keyUp h :: es => (s.keyUp h).pollEvents es
  | .quit :: _ => { s with runState := .stopped .hostQuit }

end Sys2Proof.Machine
end

