-- ==== Sys2Proof/Machine/Scheduler.lean ====
section
/-! DEFINITION. dual_clock_scheduler: the sub-steps S1, S2 and S4 of the loop iteration (60_exceptions.md R250 to R255). -/

namespace Sys2Proof.Machine

/-- The iteration's one time sample: the host's counter moves on by `pace` and is read (R250, D2, log 2). -/
def State.sampleClock (s : State) : State := { s with clock := s.clock + s.pace, now := s.clock + s.pace }

/-- S1: the stop check (R250, R266); the request taken stays set (log 34). -/
def State.subStep1 (s : State) : State :=
  if s.stopPending then { s.sampleClock with runState := .stopped .stopRequest }
  else { s.sampleClock with phase := .s2 }

/-- The instruction gate fires (R251). -/
def State.instrGateFires (s : State) : Bool := decide (s.cfg.pInstr ≤ s.now - s.lastInstr)

/-- S2: the instruction gate; firing reads the pause flag, also while paused or waiting (R250, R251, D7). -/
def State.subStep2 (s : State) : State :=
  if s.instrGateFires then { s with lastInstr := s.now, pausedSeen := s.snap.pause, phase := .s3 }
  else { s with phase := .s4 }

/-- The timer gate fires (R252). -/
def State.timerGateFires (s : State) : Bool := decide (s.cfg.pTimer ≤ s.now - s.lastTimer)

/-- One timer tick of a timer: down by 1, floor at 0 (R253). -/
def countDown (t : Byte) : Byte := if 0 < t.toNat then t - 1 else t

/-- Timer decrement, skipped while the pause was last seen set (R253, D6). -/
def State.tickTimers (s : State) : State :=
  if s.pausedSeen then s else { s with ms.dt := countDown s.ms.dt, ms.st := countDown s.ms.st }

/-- The framebuffer handoff (R254). -/
def State.handOff (s : State) : State := { s with fbOut := some s.fb }

/-- The queued events are delivered to this poll (R250, R255). -/
def State.poll (s : State) : State := { s with hostQueue := [] }.pollEvents s.hostQueue

/-- S4: the timer gate: decrement, handoff, events, in this order (R250, D5, log 19). -/
def State.subStep4 (s : State) : State :=
  if s.timerGateFires then { ({ s with lastTimer := s.now }.tickTimers.handOff.poll) with phase := .s1 }
  else { s with phase := .s1 }

end Sys2Proof.Machine
end

