-- ==== Sys2Proof/Machine/Loop.lean ====
section
/-! DEFINITION. The instruction step (40_execution_cycle.md R110), the loop iteration's sub-steps (60_exceptions.md R250)
and the agents' turns (R262). -/

namespace Sys2Proof.Machine

/-- The instruction the decoder reads at `PC`. -/
def State.fetched (s : State) : Instr := decode s.fetchWord

/-- The trace line of the instruction at `PC` (R109). -/
def State.line (s : State) : TraceLine := { pc := s.ms.pc, op := s.fetchWord }

/-- After an instruction: publish and go on to S4, unless it raised a fatal error, which ends the loop (R110, R245). -/
def State.retire (l : TraceLine) (t : State) : State :=
  if t.isRunning then { t.publish l with phase := .s4 } else t

/-- A meaning's next state goes through `f`; a stop stays a stop. -/
def mapNext (f : State → State) : Outcome → Outcome
  | .next t => .next (f t)
  | .fault r => .fault r
  | .refused r => .refused r

/-- `instr_step()` of R110: fetch with its check, decode, execute, publish. -/
def State.instrStep (s : State) : Outcome :=
  if s.fetchable then mapNext (State.retire s.line) (exec s.fetched s)
  else .next (s.raise .fetchOutOfRange none (.pc s.ms.pc.toNat))

/-- An instruction may run at this tick: not paused, not waiting (R100, R101). -/
def State.mayExecute (s : State) : Bool := !s.pausedSeen && decide (s.wait = .idle)

/-- S3: one instruction, or nothing (R100, R250). -/
def State.subStep3 (s : State) : Outcome :=
  if s.mayExecute then s.instrStep else .next { s with phase := .s4 }

/-- The emulation thread's next sub-step (R250, R262). -/
def State.threadStep (s : State) : Outcome :=
  match s.phase with
  | .s1 => .next s.subStep1
  | .s2 => .next s.subStep2
  | .s3 => s.subStep3
  | .s4 => .next s.subStep4

/-- The turn of one agent (R262, log 1). The thread's turn passes when its loop has ended (R268). -/
def State.take (s : State) : Turn → Outcome
  | .thread => if s.isRunning then s.threadStep else .next s
  | .observer op => .next (s.observe op)
  | .host e => .next { s with hostQueue := s.hostQueue ++ [e] }
  | .elapse ms => .next { s with clock := s.clock + ms }

/-- An observer whose `stop()` has not returned makes no further call (R262, R266, log 30). -/
def State.holdsBack (s : State) : Turn → Bool
  | .observer _ => s.stopCallerBlocked
  | _ => false

/-- The next atomic step of the machine: the first turn listed, or else the emulation thread, which also moves while the
observer whose turn it is blocks in `stop()`, its turn kept for when the loop has ended; a loop that has ended with nobody
else to move is stuck (R262, R266, R268, I17). -/
def State.nextTurn (s : State) : Outcome :=
  match s.turns with
  | t :: rest => if s.holdsBack t then s.threadStep else { s with turns := rest }.take t
  | [] => if s.isRunning then s.threadStep else .fault .terminated

/-- The machine about to fetch at `PC`: the thread has the move, at S3 of an iteration whose gate fired, unpaused and not
waiting. -/
def State.atFetch (s : State) : State :=
  { s with turns := [], runState := .running, phase := .s3, pausedSeen := false, wait := .idle }

/-- A word stored at `PC`, big-endian (R51); at a `PC` that cannot be fetched nothing is stored (R57). -/
def State.placeWord (s : State) (w : Word) : State :=
  if s.fetchable then s.writeBytes s.ms.pc.toNat (bytesOfWord w) else s

end Sys2Proof.Machine
end

