-- ==== Sys2Proof/Machine/Step.lean ====
section
/-! DEFINITION. The machine's step, and the placing of an instruction for the next step to run. -/

namespace Sys2Proof.Machine

/-- One atomic step of R262: a sub-step of the emulation thread, or another agent's turn. -/
def step (s : State) : Host.Outcome State Fault Refusal := s.nextTurn

/-- The state with an instruction stored where the next fetch reads, and the machine about to fetch it (log 25). The
bits of `w` are numbered with bit 0 the least significant bit of the one 16-bit word. -/
def State.withFetchWord (s : State) (nbits w : Nat) : State :=
  s.atFetch.placeWord (BitVec.ofNat 16 (w % 2 ^ nbits))

end Sys2Proof.Machine
end

