-- ==== Sys2Proof/Machine/Start.lean ====
section
/-! DEFINITION. `start(PROGRAM, KEYMAP)`, the only reset (70_reset_and_hazards.md R300 to R303). -/

namespace Sys2Proof.Machine

/-- The answer of `start`. -/
inductive StartResult where
  /-- The image is too long or host setup failed: no machine exists (R302). -/
  | setupFailed
  /-- The machine, its loop at its first sub-step. -/
  | started (s : State)
  deriving DecidableEq, Repr

/-- `PROG_MAX` (R9). -/
def progMax : Nat := 0xE00

/-- `PROG_BASE` (R9). -/
def progBase : Nat := 0x200

/-- Machine State at start: the image lies at 0x200, all else is as at reset (R300). -/
def MachineState.load (font : Font) (program : List Byte) : MachineState :=
  { MachineState.reset with mem := Memory.writeBytes font [] progBase program }

/-- The machine `start` builds (R300), from a key map in the model's numbers; its empty event queue is the model's choice (log 31). -/
def State.boot (cfg : Config) (program : List Byte) (keymap : Vector HostKey 16) : State :=
  { State.reset with
    cfg := { cfg with keymap := keymap }
    ms := MachineState.load cfg.font program
    snap := { log := [], pub := MachineState.load cfg.font program, pause := false } }

/-- `start(PROGRAM, KEYMAP)`; `hostOk` is the host's own report on its setup (R300, R302, D30). The type `K` of the host's key
codes is an argument like the rest (R10, D39); the machine holds the key map in its own numbers (log 6). -/
def State.start {K : Type} [DecidableEq K] (cfg : Config) (hostOk : Bool) (program : List Byte) (keymap : Vector K 16) :
    StartResult :=
  if progMax < program.length ∨ hostOk = false then .setupFailed
  else .started (State.boot cfg program (heldKeymap keymap))

end Sys2Proof.Machine
end

