-- ==== Sys2Proof/Safety.lean ====
section
/-! DEFINITION. The terms claims use: when an instruction runs, what a fatal error is raised on, what a step may change,
and the invariants of the machine. -/

namespace Sys2Proof.Machine

/-! ### When an instruction runs (R100, R250) -/

/-- The next step is a sub-step of the running thread, after which the turns `rest` are left: its own turn is the first
listed, or none is listed, or the first is that of an observer that blocks in `stop()`, which keeps it (R262, R266). -/
def State.threadMoves (s : State) (rest : List Turn) : Prop :=
  s.runState = .running ∧
    (s.turns = .thread :: rest ∨ (s.turns = [] ∧ rest = []) ∨
      (s.stopPending = true ∧ rest = s.turns ∧ ∃ op more, s.turns = .observer op :: more))

/-- The thread has the move, at S3 of an iteration whose gate fired, in a loop that has not ended. -/
def State.atTick (s : State) (rest : List Turn) : Prop := s.threadMoves rest ∧ s.phase = .s3

/-- The next step fetches and runs the instruction at `PC`. -/
def State.ready (s : State) (rest : List Turn) : Prop :=
  s.atTick rest ∧ s.pausedSeen = false ∧ s.wait = .idle ∧ s.ms.pc.toNat ≤ 0xFFE

/-! ### When an instruction raises a fatal error (R242, the table) -/

/-- The error of an access of `n > 0` bytes at `I`. -/
def blockFault (s : State) (n : Nat) : Option (FaultCode × FaultInfo) :=
  if 0xFFF < s.ms.i.toNat + n - 1 ∧ 0 < n then some (.memoryOutOfRange, .addr (s.ms.i.toNat + n - 1)) else none

/-- The error of a key index above 0xF in `V[x]`. -/
def keyFault (s : State) (x : Reg) : Option (FaultCode × FaultInfo) :=
  if 0xF < (s.getV x).toNat then some (.keyIndexOutOfRange, .index (s.getV x).toNat) else none

/-- The code and info of the fatal error an instruction raises in a state, if it raises one (R242, R243). -/
def faultOf : Instr → State → Option (FaultCode × FaultInfo)
  | .ret, s => if s.ms.sp.val = 0 then some (.stackUnderflow, .sp 0) else none
  | .call _, s => if s.ms.sp.val = 16 then some (.stackOverflow, .sp 16) else none
  | .drw _ _ n, s => blockFault s n.toNat
  | .ldBVx _, s => blockFault s 3
  | .ldMemVx x, s => blockFault s (x.val + 1)
  | .ldVxMem x, s => blockFault s (x.val + 1)
  | .skp x, s => keyFault s x
  | .sknp x, s => keyFault s x
  | _, _ => none

/-! ### Frames -/

/-- Every byte of memory reads as before. -/
def SameMemory (s t : State) : Prop := ∀ a, t.readByte a = s.readByte a

/-- Nothing but `PC` may differ. -/
def OnlyPc (s t : State) : Prop :=
  t = { s with ms := { s.ms with pc := t.ms.pc } } ∧ SameMemory s t

/-- Nothing but `PC` and `V` registers may differ. -/
def OnlyPcRegs (s t : State) : Prop :=
  t = { s with ms := { s.ms with pc := t.ms.pc, v := t.ms.v } } ∧ SameMemory s t

/-- Nothing but `PC` and `I` may differ. -/
def OnlyPcIndex (s t : State) : Prop :=
  t = { s with ms := { s.ms with pc := t.ms.pc, i := t.ms.i } } ∧ SameMemory s t

/-- Nothing but `PC` and the bytes at `a` to `a + n - 1` may differ. -/
def OnlyPcBytes (s t : State) (a n : Nat) : Prop :=
  t = { s with ms := { s.ms with pc := t.ms.pc, mem := t.ms.mem } } ∧
    ∀ b, (b < a ∨ a + n ≤ b) → t.readByte b = s.readByte b

/-! ### Invariants -/

/-- Both memories keep the canonical form. -/
def State.memoryOk (s : State) : Prop :=
  Memory.wf s.cfg.font s.ms.mem ∧ Memory.wf s.cfg.font s.snap.pub.mem

/-- The trace log is within its capacity (R259). -/
def State.logOk (s : State) : Prop := s.snap.log.length ≤ s.cfg.traceCap

/-- `PC` is at most 0x10FE and every return address at most 0x1000, so `PC` never wraps (R103, R144). -/
def State.pcOk (s : State) : Prop := s.ms.pc.toNat ≤ 0x10FE ∧ ∀ k, (s.slot k).toNat ≤ 0x1000

/-- The gates fired in the past, and the sample is not ahead of the host's counter (R250, R251). -/
def State.timesOk (s : State) : Prop := s.lastInstr ≤ s.now ∧ s.lastTimer ≤ s.now ∧ s.now ≤ s.clock

/-- Once `endloop` is set, `PC` stands at a jump to itself, whose line is the last of the log (R28, R261). -/
def State.selfLoopOk (s : State) : Prop :=
  s.ms.endloop = true →
    s.ms.pc.toNat ≤ 0xFFE ∧ (∃ nnn : Addr, s.fetched = .jp nnn ∧ nnn.toNat = s.ms.pc.toNat) ∧
      (s.cfg.traceCap = 0 ∨ s.snap.log.getLast? = some s.line)

/-- The machine's invariant. -/
def State.Inv (s : State) : Prop := s.memoryOk ∧ s.logOk ∧ s.pcOk ∧ s.timesOk ∧ s.selfLoopOk

end Sys2Proof.Machine
end

