-- ==== Sys2Proof/Certificates/Slice0/Obligations.lean ====
section
/-! DEFINITION. The statements for the provers. Each docstring names the rule of spec/ it formalises, or, where it rests on
a decision of the spec or a choice of the model, that decision (92_eei_decisions.md D<n>) and its log entry. -/

open Sys2Proof Sys2Proof.Machine

/-! ### Encoding (30_encoding.md) -/

/-- A few words of R74, one or more of each family, decode to the instruction they stand for; 0x0123 stands in no row (R76), and
0x5121 in none by the strict reading of the fixed low nibble (R77, decision D15, log 12). -/
def Obligations.SampleWordsDecode : Prop :=
  decode 0x00E0 = .cls ∧ decode 0xD123 = .drw 1 2 3 ∧
  decode 0x00EE = .ret ∧ decode 0x1208 = .jp 0x208 ∧ decode 0x4342 = .sneImm 3 0x42 ∧ decode 0xBFFF = .jpV0 0xFFF ∧
  decode 0x6A9D = .ldImm 10 0x9D ∧ decode 0x8127 = .subn 1 2 ∧ decode 0x812E = .shl 1 2 ∧ decode 0xCF0F = .rnd 15 0x0F ∧
  decode 0xAFFF = .ldI 0xFFF ∧ decode 0xF265 = .ldVxMem 2 ∧
  decode 0xE5A1 = .sknp 5 ∧ decode 0xF30A = .ldVxK 3 ∧
  decode 0x5121 = .unrecognized 0x5121 ∧ decode 0x0123 = .unrecognized 0x0123

/-- Decoding the two bytes of a well-formed instruction gives it back, whatever its operands, and leaves the bytes after
them (R70, R71, R74, R75). -/
def Obligations.DecodeOfEncode : Prop :=
  ∀ (i : Instr) (rest : List Byte), i.wf = true → decodeBytes (encodeBytes i ++ rest) = .ok (i, rest)

/-- Every two bytes decode, to a well-formed instruction whose own two bytes they are (R75: total on all words). -/
def Obligations.EncodeOfDecode : Prop :=
  ∀ (hi lo : Byte) (rest : List Byte),
    ∃ i, decodeBytes (hi :: lo :: rest) = .ok (i, rest) ∧ i.wf = true ∧ encodeBytes i = [hi, lo]

/-- The decoder follows the opcode map: a word in a row decodes to that row's instruction, a word in none to itself as an
unrecognized word, and the operand fields are X = `op[11:8]`, Y = `op[7:4]`, N = `op[3:0]`, KK = `op[7:0]`, NNN = `op[11:0]`,
each at every value (30_encoding.md sections 2 and 3; strict on every fixed bit by D15, log 12). -/
def Obligations.DecodeFollowsOpcodeMap : Prop :=
  (∀ w : Word,
    (∀ r ∈ opcodeTable, r.matches w = true → (decode w).mnemonic = r.mnemonic) ∧
    ((∀ r ∈ opcodeTable, r.matches w = false) → decode w = .unrecognized w)) ∧
  decode 0x00E0 = .cls ∧ decode 0x00EE = .ret ∧
  ∀ (x y : Reg) (n : Nibble) (kk : Byte) (nnn : Addr),
    decode (BitVec.ofNat 16 (0x1000 + nnn.toNat)) = .jp nnn ∧
    decode (BitVec.ofNat 16 (0x2000 + nnn.toNat)) = .call nnn ∧
    decode (BitVec.ofNat 16 (0x3000 + x.val * 0x100 + kk.toNat)) = .seImm x kk ∧
    decode (BitVec.ofNat 16 (0x4000 + x.val * 0x100 + kk.toNat)) = .sneImm x kk ∧
    decode (BitVec.ofNat 16 (0x5000 + x.val * 0x100 + y.val * 0x10)) = .seReg x y ∧
    decode (BitVec.ofNat 16 (0x6000 + x.val * 0x100 + kk.toNat)) = .ldImm x kk ∧
    decode (BitVec.ofNat 16 (0x7000 + x.val * 0x100 + kk.toNat)) = .addImm x kk ∧
    decode (BitVec.ofNat 16 (0x8000 + x.val * 0x100 + y.val * 0x10)) = .ldReg x y ∧
    decode (BitVec.ofNat 16 (0x8001 + x.val * 0x100 + y.val * 0x10)) = .orReg x y ∧
    decode (BitVec.ofNat 16 (0x8002 + x.val * 0x100 + y.val * 0x10)) = .andReg x y ∧
    decode (BitVec.ofNat 16 (0x8003 + x.val * 0x100 + y.val * 0x10)) = .xorReg x y ∧
    decode (BitVec.ofNat 16 (0x8004 + x.val * 0x100 + y.val * 0x10)) = .addReg x y ∧
    decode (BitVec.ofNat 16 (0x8005 + x.val * 0x100 + y.val * 0x10)) = .sub x y ∧
    decode (BitVec.ofNat 16 (0x8006 + x.val * 0x100 + y.val * 0x10)) = .shr x y ∧
    decode (BitVec.ofNat 16 (0x8007 + x.val * 0x100 + y.val * 0x10)) = .subn x y ∧
    decode (BitVec.ofNat 16 (0x800E + x.val * 0x100 + y.val * 0x10)) = .shl x y ∧
    decode (BitVec.ofNat 16 (0x9000 + x.val * 0x100 + y.val * 0x10)) = .sneReg x y ∧
    decode (BitVec.ofNat 16 (0xA000 + nnn.toNat)) = .ldI nnn ∧
    decode (BitVec.ofNat 16 (0xB000 + nnn.toNat)) = .jpV0 nnn ∧
    decode (BitVec.ofNat 16 (0xC000 + x.val * 0x100 + kk.toNat)) = .rnd x kk ∧
    decode (BitVec.ofNat 16 (0xD000 + x.val * 0x100 + y.val * 0x10 + n.toNat)) = .drw x y n ∧
    decode (BitVec.ofNat 16 (0xE09E + x.val * 0x100)) = .skp x ∧
    decode (BitVec.ofNat 16 (0xE0A1 + x.val * 0x100)) = .sknp x ∧
    decode (BitVec.ofNat 16 (0xF007 + x.val * 0x100)) = .ldVxDt x ∧
    decode (BitVec.ofNat 16 (0xF00A + x.val * 0x100)) = .ldVxK x ∧
    decode (BitVec.ofNat 16 (0xF015 + x.val * 0x100)) = .ldDtVx x ∧
    decode (BitVec.ofNat 16 (0xF018 + x.val * 0x100)) = .ldStVx x ∧
    decode (BitVec.ofNat 16 (0xF01E + x.val * 0x100)) = .addIVx x ∧
    decode (BitVec.ofNat 16 (0xF029 + x.val * 0x100)) = .ldFVx x ∧
    decode (BitVec.ofNat 16 (0xF033 + x.val * 0x100)) = .ldBVx x ∧
    decode (BitVec.ofNat 16 (0xF055 + x.val * 0x100)) = .ldMemVx x ∧
    decode (BitVec.ofNat 16 (0xF065 + x.val * 0x100)) = .ldVxMem x

/-- The unrecognized words are those of the list of 30_encoding.md section 4, by their numbers (D15, log 12). -/
def Obligations.UnrecognizedWordClasses : Prop :=
  ∀ w : Word,
    decode w = .unrecognized w ↔
      (w.toNat < 0x1000 ∧ w.toNat ≠ 0xE0 ∧ w.toNat ≠ 0xEE) ∨
      (w.toNat / 0x1000 = 5 ∧ w.toNat % 16 ≠ 0) ∨
      (w.toNat / 0x1000 = 8 ∧ w.toNat % 16 ∈ [0x8, 0x9, 0xA, 0xB, 0xC, 0xD, 0xF]) ∨
      (w.toNat / 0x1000 = 9 ∧ w.toNat % 16 ≠ 0) ∨
      (w.toNat / 0x1000 = 0xE ∧ w.toNat % 256 ∉ [0x9E, 0xA1]) ∨
      (w.toNat / 0x1000 = 0xF ∧ w.toNat % 256 ∉ [0x07, 0x0A, 0x15, 0x18, 0x1E, 0x29, 0x33, 0x55, 0x65])

/-! ### The execution cycle (40_execution_cycle.md) -/

/-- The fetched word has the byte at `PC` as its more significant half (R51). -/
def Obligations.FetchIsBigEndian : Prop :=
  ∀ s : State,
    s.fetchWord.toNat = 256 * (s.readByte s.ms.pc.toNat).toNat + (s.readByte (s.ms.pc.toNat + 1)).toNat

/-- When the two bytes at `PC` decode to `i` and the machine is ready, by whichever turn the thread has the move, the step is
`exec i`, followed by the publish of the line `(PC, word)` and the move to S4, or, if `i` raised a fatal error, by nothing
(R110; the turns are the model's, log 1). -/
def Obligations.StepRunsFetchedInstruction : Prop :=
  ∀ (s t : State) (rest : List Turn) (i : Instr), s.ready rest →
    decodeBytes (s.readBytes s.ms.pc.toNat 2) = .ok (i, []) → i.wf = true →
    exec i { s with turns := rest } = .next t →
    step s = .next
      (if t.runState = .running then { t.publish { pc := s.ms.pc, op := s.fetchWord } with phase := .s4 } else t)

/-- A word placed by `withFetchWord` in a state whose `PC` can be fetched makes the machine ready, and it is the word the
next step decodes (log 25). -/
def Obligations.PlacedWordIsFetched : Prop :=
  ∀ (s : State) (w : Word), s.ms.pc.toNat ≤ 0xFFE → s.ms.mem.Pairwise (fun c d => c.1 < d.1) →
    (s.withFetchWord 16 w.toNat).ready [] ∧ (s.withFetchWord 16 w.toNat).fetchWord = w

/-- An instruction tick runs an instruction exactly when the gate fired, the pause flag read is false and `wait` is Idle:
S2 goes on to S3 exactly when the gate fires, S3 runs an instruction exactly when unpaused and idle, and S2 and a blocked S3
change nothing of Machine State, the framebuffer, the latch and the Snapshot Record (40_execution_cycle.md section 1; the
comparison that fires the gate is 60_exceptions.md section 3 by decision D4, log 19; the turns are the model's, log 1). -/
def Obligations.InstructionTickGating : Prop :=
  ∀ (s : State) (rest : List Turn), s.threadMoves rest →
    (s.phase = .s2 → ∃ t, step s = .next t ∧
      (t.phase = .s3 ↔ s.cfg.pInstr ≤ s.now - s.lastInstr) ∧
      (t.phase = .s3 → t.pausedSeen = s.snap.pause) ∧
      t.ms = s.ms ∧ t.fb = s.fb ∧ t.keys = s.keys ∧ t.wait = s.wait ∧ t.snap = s.snap) ∧
    (s.phase = .s3 → (s.pausedSeen = true ∨ s.wait ≠ .idle) → step s = .next { s with turns := rest, phase := .s4 }) ∧
    (s.phase = .s3 → s.pausedSeen = false → s.wait = .idle → step s = { s with turns := rest }.instrStep)

/-- A fetch at a `PC` above 0xFFE ends the machine with a FetchOutOfRange record and changes nothing else
(40_execution_cycle.md section 2, decisions D8 and D10, log 9 and 13; the turns are the model's, log 1). -/
def Obligations.FetchOutsideMemoryIsFatal : Prop :=
  ∀ (s : State) (rest : List Turn), s.atTick rest → s.pausedSeen = false → s.wait = .idle → 0xFFE < s.ms.pc.toNat →
    step s = .next { s with
      turns := rest
      runState := .faulted { code := .fetchOutOfRange, pc := s.ms.pc, opcode := none, info := .pc s.ms.pc.toNat } }

/-- The fatal errors an instruction raises are those of the table of 60_exceptions.md section 1, and no other: where one
applies, the record is `(code, pc0, word, info)` and nothing else changes; where none does, `run_state` is kept. That a fault
ends the machine so, and its record, are decisions D10 and D11 (log 9); that a data access above 0xFFF is one, by exact
integers, is D9 (log 13); that a key index above 0xF is one is D12 (log 14). -/
def Obligations.FatalErrorsAreTheListedOnes : Prop :=
  ∀ (i : Instr) (s : State),
    (∀ code info, faultOf i s = some (code, info) →
      exec i s = .next { s with runState := .faulted { code := code, pc := s.ms.pc, opcode := some (encode i),
                                                       info := info } }) ∧
    (faultOf i s = none → ∃ t, exec i s = .next t ∧ t.runState = s.runState)

/-- What kinds of state each instruction may write besides `PC`: the rows of the table of 40_execution_cycle.md section 6, an
inference the spec marks as derived. A kind of state not in the instruction's row (memory, the framebuffer, the stack, `SP`,
`endloop`, `I`, `DT`, `ST`, `wait`, `VF`, the other `V` registers, anything else but two) is unchanged. The two are `run_state`,
which is left free here and fixed by the statement about the fatal errors, and `draws`, the model's own counter of the random
draws, which the table does not list and CXKK alone advances (DESIGN CHOICE, log 3). Which register, slot, cell or byte of a kind
is written stands in the statements about the single instructions. -/
def Obligations.OnlyListedWrites : Prop :=
  ∀ (i : Instr) (s t : State), exec i s = .next t →
    (t.ms.mem = s.ms.mem ∨ i.mnemonic ∈ ["LD_B_VX", "LD_MEM_VX"]) ∧
    (t.fb = s.fb ∨ i.mnemonic ∈ ["CLS", "DRW"]) ∧
    (t.ms.stack = s.ms.stack ∨ i.mnemonic = "CALL") ∧
    (t.ms.sp = s.ms.sp ∨ i.mnemonic ∈ ["RET", "CALL"]) ∧
    (t.ms.endloop = s.ms.endloop ∨ (i.mnemonic = "JP" ∧ t.ms.endloop = true)) ∧
    (t.ms.i = s.ms.i ∨ i.mnemonic ∈ ["LD_I", "ADD_I_VX", "LD_F_VX"]) ∧
    (t.ms.dt = s.ms.dt ∨ i.mnemonic = "LD_DT_VX") ∧
    (t.ms.st = s.ms.st ∨ i.mnemonic = "LD_ST_VX") ∧
    (t.wait = s.wait ∨ i.mnemonic = "LD_VX_K") ∧
    (t.draws = s.draws ∨ i.mnemonic = "RND") ∧
    (t.getV vf = s.getV vf ∨ i.mnemonic ∈ ["LD_IMM", "ADD_IMM", "LD_REG", "RND", "LD_VX_DT", "LD_VX_MEM", "OR", "AND", "XOR",
      "ADD_REG", "SUB", "SHR", "SUBN", "SHL", "DRW"]) ∧
    (∀ r, r ≠ vf → t.getV r = s.getV r ∨ i.mnemonic ∈ ["LD_IMM", "ADD_IMM", "LD_REG", "RND", "LD_VX_DT", "LD_VX_MEM", "OR",
      "AND", "XOR", "ADD_REG", "SUB", "SHR", "SUBN", "SHL"]) ∧
    t = { s with ms := t.ms, fb := t.fb, wait := t.wait, draws := t.draws, runState := t.runState }

/-- An unrecognized word is a traced no-op: only `PC` moves, by 2, its description is the fixed text, and the step that runs
it publishes like any other (40_execution_cycle.md section 4; the turns are the model's, log 1). -/
def Obligations.UnrecognizedWordIsNoOp : Prop :=
  (∀ (w : Word) (s : State), ∃ t, exec (.unrecognized w) s = .next t ∧ t.ms.pc = s.ms.pc + 2 ∧ OnlyPc s t) ∧
  (∀ w : Word, decode w = .unrecognized w → describeWord w = "unknown/unimplemented instruction") ∧
  (TraceLine.mk 0x200 0x0123).text = "0200: 0123 - unknown/unimplemented instruction" ∧
  (∀ (s : State) (rest : List Turn), s.ready rest → s.fetched = .unrecognized s.fetchWord →
    step s = .next { ({ s with turns := rest, ms := { s.ms with pc := s.ms.pc + 2 } } : State).publish
      { pc := s.ms.pc, op := s.fetchWord } with phase := .s4 })

/-! ### Display (41_display.md) -/

/-- 00E0 clears every cell and changes nothing else but `PC` (R120). -/
def Obligations.ClsClearsEveryCell : Prop :=
  (encode .cls).toNat = 0x00E0 ∧
  ∀ s : State, ∃ t, exec .cls s = .next t ∧ t.ms.pc = s.ms.pc + 2 ∧ (∀ x y, t.fb.cell x y = false) ∧
    (∀ r, t.getV r = s.getV r) ∧ t = { s with fb := t.fb, ms := { s.ms with pc := t.ms.pc } } ∧ SameMemory s t

/-- DXYN, where its rows lie in memory: a cell is inverted exactly when a set bit `7 - col` of row byte `row` falls on it at
`((V[X] + col) mod 64, (V[Y] + row) mod 32)`, `VF` is 1 exactly when such a cell was set, and nothing else but `PC` changes.
`V[X]`, `V[Y]` are the values before the instruction also for X or Y = 0xF (decision D14, log 11). -/
def Obligations.DrwTogglesTouchedCells : Prop :=
  ∀ (x y : Reg) (n : Nibble) (s : State), (n.toNat = 0 ∨ s.ms.i.toNat + n.toNat ≤ 0x1000) →
    ∃ t, exec (.drw x y n) s = .next t ∧ t.ms.pc = s.ms.pc + 2 ∧
      (∀ (cx : Fin 64) (cy : Fin 32), t.fb.cell cx cy ≠ s.fb.cell cx cy ↔
        ∃ row col, row < n.toNat ∧ col < 8 ∧ (s.readByte (s.ms.i.toNat + row)).getLsbD (7 - col) = true ∧
          cx.val = ((s.getV x).toNat + col) % 64 ∧ cy.val = ((s.getV y).toNat + row) % 32) ∧
      (t.getV vf = 0 ∨ t.getV vf = 1) ∧
      (t.getV vf = 1 ↔ ∃ cx cy, s.fb.cell cx cy = true ∧ t.fb.cell cx cy = false) ∧
      (∀ r, r ≠ vf → t.getV r = s.getV r) ∧
      t = { s with fb := t.fb, ms := { s.ms with pc := t.ms.pc, v := t.ms.v } } ∧ SameMemory s t

/-- Drawing a sprite of at most 15 rows twice at one place restores every cell. The first draw reports a collision exactly
when a touched cell was set, the second exactly when one was clear before the first; with every touched cell clear, the first
reports none and the second one exactly when the sprite has a set bit (41_display.md, derived there from the draw rule;
90_conflicts.md C5; the spec's sentence about the second draw holds under C5's precondition only, log 23). -/
def Obligations.DrawingTwiceRestores : Prop :=
  ∀ (fb : Framebuffer) (x0 y0 : Byte) (rows : List Byte), rows.length ≤ 15 →
    (∀ x y, ((fb.draw x0 y0 rows).1.draw x0 y0 rows).1.cell x y = fb.cell x y) ∧
    ((fb.draw x0 y0 rows).2 = true ↔ ∃ c ∈ spriteCells x0 y0 0 rows, fb.cell c.1 c.2 = true) ∧
    (((fb.draw x0 y0 rows).1.draw x0 y0 rows).2 = true ↔ ∃ c ∈ spriteCells x0 y0 0 rows, fb.cell c.1 c.2 = false) ∧
    ((∀ c ∈ spriteCells x0 y0 0 rows, fb.cell c.1 c.2 = false) →
      (fb.draw x0 y0 rows).2 = false ∧ (((fb.draw x0 y0 rows).1.draw x0 y0 rows).2 = true ↔ ∃ b ∈ rows, b ≠ 0))

/-! ### Control flow (42_control_flow.md) -/

/-- 00EE with `SP` above 0: `SP` goes down by 1 and `PC` takes that slot, which keeps its value (42_control_flow.md; the fault
at `SP = 0` is stated with the fatal errors). -/
def Obligations.RetPopsReturnAddress : Prop :=
  ∀ s : State, 0 < s.ms.sp.val → ∃ t, exec .ret s = .next t ∧ t.ms.sp.val + 1 = s.ms.sp.val ∧
    (∀ k : Fin 16, k.val = t.ms.sp.val → t.ms.pc = s.slot k) ∧ (∀ k, t.slot k = s.slot k) ∧
    (∀ r, t.getV r = s.getV r) ∧ t = { s with ms := { s.ms with pc := t.ms.pc, sp := t.ms.sp } } ∧ SameMemory s t

/-- 1NNN: `PC` is NNN, and `endloop` becomes true when NNN is the instruction's own address and keeps its value otherwise
(42_control_flow.md; that nothing clears it is decision D18, log 16). -/
def Obligations.JpJumpsAndMarksSelfLoop : Prop :=
  ∀ (nnn : Addr) (s : State), ∃ t, exec (.jp nnn) s = .next t ∧ t.ms.pc.toNat = nnn.toNat ∧
    (nnn.toNat = s.ms.pc.toNat → t.ms.endloop = true) ∧ (nnn.toNat ≠ s.ms.pc.toNat → t.ms.endloop = s.ms.endloop) ∧
    (∀ r, t.getV r = s.getV r) ∧ t = { s with ms := { s.ms with pc := t.ms.pc, endloop := t.ms.endloop } } ∧ SameMemory s t

/-- 2NNN with `SP` below 16: the slot at `SP` takes the address after the instruction, `SP` goes up by 1, `PC` is NNN, and
`endloop` is not set (42_control_flow.md; the pushed value and the slot's width are decision D34, log 21). -/
def Obligations.CallPushesReturnAddress : Prop :=
  ∀ (nnn : Addr) (s : State), s.ms.sp.val < 16 → ∃ t, exec (.call nnn) s = .next t ∧ t.ms.pc.toNat = nnn.toNat ∧
    t.ms.sp.val = s.ms.sp.val + 1 ∧ (∀ k, t.slot k = if k.val = s.ms.sp.val then s.ms.pc + 2 else s.slot k) ∧
    (∀ r, t.getV r = s.getV r) ∧
    t = { s with ms := { s.ms with pc := t.ms.pc, sp := t.ms.sp, stack := t.ms.stack } } ∧ SameMemory s t

/-- A return, from any state whose stack and `SP` are those a call left, goes to the instruction after the call, with `SP` as
before it (95_test_vectors.md L1-7). -/
def Obligations.CallThenRetReturns : Prop :=
  ∀ (nnn : Addr) (s t u : State), s.ms.sp.val < 16 → exec (.call nnn) s = .next t →
    u.ms.sp = t.ms.sp → u.ms.stack = t.ms.stack →
    ∃ v, exec .ret u = .next v ∧ v.ms.pc = s.ms.pc + 2 ∧ v.ms.sp = s.ms.sp

/-- BNNN: `PC` is the exact sum of NNN and `V[0]`, which at 0xFFF or above cannot be fetched (decision D8, log 13); `endloop` is
not set, also where the target is the instruction's own address (decision D18, log 16), and nothing else changes
(42_control_flow.md). -/
def Obligations.JpV0AddsOffset : Prop :=
  ∀ (nnn : Addr) (s : State), (encode (.jpV0 nnn)).toNat = 0xB000 + nnn.toNat ∧
    ∃ t, exec (.jpV0 nnn) s = .next t ∧ t.ms.pc.toNat = nnn.toNat + (s.getV 0).toNat ∧ t.ms.endloop = s.ms.endloop ∧
      (0xFFF ≤ t.ms.pc.toNat → t.fetchable = false) ∧ OnlyPc s t

/-- 3XRR and 4XRR skip exactly 2 bytes when `V[X]` equals, or differs from, RR (R145, R146). -/
def Obligations.SkipOnImmediate : Prop :=
  ∀ (x : Reg) (rr : Byte) (s : State),
    (encode (.seImm x rr)).toNat = 0x3000 + x.val * 0x100 + rr.toNat ∧
    (encode (.sneImm x rr)).toNat = 0x4000 + x.val * 0x100 + rr.toNat ∧
    (∃ t, exec (.seImm x rr) s = .next t ∧ OnlyPc s t ∧
      t.ms.pc = if s.getV x = rr then s.ms.pc + 4 else s.ms.pc + 2) ∧
    (∃ t, exec (.sneImm x rr) s = .next t ∧ OnlyPc s t ∧
      t.ms.pc = if s.getV x = rr then s.ms.pc + 2 else s.ms.pc + 4)

/-- 5XY0 and 9XY0 skip exactly 2 bytes when `V[X]` equals, or differs from, `V[Y]` (R147, R148). -/
def Obligations.SkipOnRegister : Prop :=
  ∀ (x y : Reg) (s : State),
    (encode (.seReg x y)).toNat = 0x5000 + x.val * 0x100 + y.val * 0x10 ∧
    (encode (.sneReg x y)).toNat = 0x9000 + x.val * 0x100 + y.val * 0x10 ∧
    (∃ t, exec (.seReg x y) s = .next t ∧ OnlyPc s t ∧
      t.ms.pc = if s.getV x = s.getV y then s.ms.pc + 4 else s.ms.pc + 2) ∧
    (∃ t, exec (.sneReg x y) s = .next t ∧ OnlyPc s t ∧
      t.ms.pc = if s.getV x = s.getV y then s.ms.pc + 2 else s.ms.pc + 4)

/-! ### Registers and arithmetic (43_register_alu.md) -/

/-- 6XRR: `V[X]` is RR; 8XY0: `V[X]` is `V[Y]` (R160, R162). -/
def Obligations.LoadsCopyOperand : Prop :=
  ∀ (x y : Reg) (rr : Byte) (s : State),
    (encode (.ldImm x rr)).toNat = 0x6000 + x.val * 0x100 + rr.toNat ∧
    (encode (.ldReg x y)).toNat = 0x8000 + x.val * 0x100 + y.val * 0x10 ∧
    (∃ t, exec (.ldImm x rr) s = .next t ∧ t.ms.pc = s.ms.pc + 2 ∧
      (∀ r, t.getV r = if r = x then rr else s.getV r) ∧ OnlyPcRegs s t) ∧
    (∃ t, exec (.ldReg x y) s = .next t ∧ t.ms.pc = s.ms.pc + 2 ∧
      (∀ r, t.getV r = if r = x then s.getV y else s.getV r) ∧ OnlyPcRegs s t)

/-- 7XRR: `V[X]` is the sum modulo 256, and `VF` is not written unless X is 0xF (R161). -/
def Obligations.AddImmWrapsWithoutFlag : Prop :=
  ∀ (x : Reg) (rr : Byte) (s : State), (encode (.addImm x rr)).toNat = 0x7000 + x.val * 0x100 + rr.toNat ∧
    ∃ t, exec (.addImm x rr) s = .next t ∧ t.ms.pc = s.ms.pc + 2 ∧
      (t.getV x).toNat = ((s.getV x).toNat + rr.toNat) % 256 ∧ (∀ r, r ≠ x → t.getV r = s.getV r) ∧ OnlyPcRegs s t

/-- 8XY1, 8XY2, 8XY3: `V[X]` is the bitwise result and `VF` ends as 0, also for X = 0xF, whose result is lost
(R163, R164, R165). -/
def Obligations.BitwiseClearsVf : Prop :=
  ∀ (x y : Reg) (s : State),
    (encode (.orReg x y)).toNat = 0x8001 + x.val * 0x100 + y.val * 0x10 ∧
    (encode (.andReg x y)).toNat = 0x8002 + x.val * 0x100 + y.val * 0x10 ∧
    (encode (.xorReg x y)).toNat = 0x8003 + x.val * 0x100 + y.val * 0x10 ∧
    (∃ t, exec (.orReg x y) s = .next t ∧ t.ms.pc = s.ms.pc + 2 ∧
      (∀ r, t.getV r = if r = vf then 0 else if r = x then s.getV x ||| s.getV y else s.getV r) ∧ OnlyPcRegs s t) ∧
    (∃ t, exec (.andReg x y) s = .next t ∧ t.ms.pc = s.ms.pc + 2 ∧
      (∀ r, t.getV r = if r = vf then 0 else if r = x then s.getV x &&& s.getV y else s.getV r) ∧ OnlyPcRegs s t) ∧
    (∃ t, exec (.xorReg x y) s = .next t ∧ t.ms.pc = s.ms.pc + 2 ∧
      (∀ r, t.getV r = if r = vf then 0 else if r = x then s.getV x ^^^ s.getV y else s.getV r) ∧ OnlyPcRegs s t)

/-- 8XY4: `VF` is the carry, then `V[X]` the sum modulo 256 of the registers as that write left them (43_register_alu.md
section 4; the order matters for X or Y = 0xF only and is decision D13, log 10). -/
def Obligations.AddRegCarriesIntoVf : Prop :=
  ∀ (x y : Reg) (s : State), (encode (.addReg x y)).toNat = 0x8004 + x.val * 0x100 + y.val * 0x10 ∧
    ∃ t, exec (.addReg x y) s = .next t ∧ t.ms.pc = s.ms.pc + 2 ∧ OnlyPcRegs s t ∧
    ∃ c : Byte, c.toNat = ((s.getV x).toNat + (s.getV y).toNat) / 256 ∧
      (∀ r, r ≠ x → t.getV r = if r = vf then c else s.getV r) ∧
      (t.getV x).toNat = ((if x = vf then c else s.getV x).toNat + (if y = vf then c else s.getV y).toNat) % 256

/-- 8XY5 and 8XY7: `VF` is 1 when the first operand is strictly greater and 0 otherwise, then `V[X]` is the difference modulo
256 of the registers as that write left them (43_register_alu.md section 4; decision D13, log 10). -/
def Obligations.SubtractionsSetNoBorrow : Prop :=
  ∀ (x y : Reg) (s : State),
    (encode (.sub x y)).toNat = 0x8005 + x.val * 0x100 + y.val * 0x10 ∧
    (encode (.subn x y)).toNat = 0x8007 + x.val * 0x100 + y.val * 0x10 ∧
    (∃ t, exec (.sub x y) s = .next t ∧ t.ms.pc = s.ms.pc + 2 ∧ OnlyPcRegs s t ∧
      ∃ c : Byte, c = (if (s.getV y).toNat < (s.getV x).toNat then 1 else 0) ∧
        (∀ r, r ≠ x → t.getV r = if r = vf then c else s.getV r) ∧
        (t.getV x).toNat =
          ((if x = vf then c else s.getV x).toNat + 256 - (if y = vf then c else s.getV y).toNat) % 256) ∧
    (∃ t, exec (.subn x y) s = .next t ∧ t.ms.pc = s.ms.pc + 2 ∧ OnlyPcRegs s t ∧
      ∃ c : Byte, c = (if (s.getV x).toNat < (s.getV y).toNat then 1 else 0) ∧
        (∀ r, r ≠ x → t.getV r = if r = vf then c else s.getV r) ∧
        (t.getV x).toNat =
          ((if y = vf then c else s.getV y).toNat + 256 - (if x = vf then c else s.getV x).toNat) % 256)

/-- 8XY6 and 8XYE: `VF` is the bit shifted out, then `V[X]` is shifted by one as that write left it; the Y field changes
nothing (43_register_alu.md section 4; decision D13, log 10). -/
def Obligations.ShiftsMoveOneBit : Prop :=
  ∀ (x y : Reg) (s : State),
    (encode (.shr x y)).toNat = 0x8006 + x.val * 0x100 + y.val * 0x10 ∧
    (encode (.shl x y)).toNat = 0x800E + x.val * 0x100 + y.val * 0x10 ∧
    (∃ t, exec (.shr x y) s = .next t ∧ t.ms.pc = s.ms.pc + 2 ∧ OnlyPcRegs s t ∧ exec (.shr x 0) s = .next t ∧
      ∃ c : Byte, c.toNat = (s.getV x).toNat % 2 ∧ (∀ r, r ≠ x → t.getV r = if r = vf then c else s.getV r) ∧
        (t.getV x).toNat = (if x = vf then c else s.getV x).toNat / 2) ∧
    (∃ t, exec (.shl x y) s = .next t ∧ t.ms.pc = s.ms.pc + 2 ∧ OnlyPcRegs s t ∧ exec (.shl x 0) s = .next t ∧
      ∃ c : Byte, c.toNat = (s.getV x).toNat / 128 ∧ (∀ r, r ≠ x → t.getV r = if r = vf then c else s.getV r) ∧
        (t.getV x).toNat = 2 * (if x = vf then c else s.getV x).toNat % 256)

/-- The arithmetic rows of the table of 43_register_alu.md section 4 for X = 0xF or Y = 0xF, an inference the spec marks as
derived from the statement order it decided (D13, log 10): the final `VF`, and `V[X]` where X is not 0xF. -/
def Obligations.FlagAliasTable : Prop :=
  ∀ (x y : Reg) (s : State), x ≠ vf → y ≠ vf →
    (∃ t, exec (.addReg vf y) s = .next t ∧
      t.getV vf = (if 255 < (s.getV vf).toNat + (s.getV y).toNat then 1 else 0) + s.getV y) ∧
    (∃ t, exec (.addReg x vf) s = .next t ∧ t.getV x = s.getV x + t.getV vf ∧
      t.getV vf = if 255 < (s.getV x).toNat + (s.getV vf).toNat then 1 else 0) ∧
    (∃ t, exec (.addReg vf vf) s = .next t ∧ t.getV vf = if 127 < (s.getV vf).toNat then 2 else 0) ∧
    (∃ t, exec (.sub vf y) s = .next t ∧
      t.getV vf = (if (s.getV y).toNat < (s.getV vf).toNat then 1 else 0) - s.getV y) ∧
    (∃ t, exec (.sub x vf) s = .next t ∧ t.getV x = s.getV x - t.getV vf ∧
      t.getV vf = if (s.getV vf).toNat < (s.getV x).toNat then 1 else 0) ∧
    (∃ t, exec (.sub vf vf) s = .next t ∧ t.getV vf = 0) ∧
    (∃ t, exec (.subn vf y) s = .next t ∧
      t.getV vf = s.getV y - (if (s.getV vf).toNat < (s.getV y).toNat then 1 else 0)) ∧
    (∃ t, exec (.subn x vf) s = .next t ∧ t.getV x = t.getV vf - s.getV x ∧
      t.getV vf = if (s.getV x).toNat < (s.getV vf).toNat then 1 else 0) ∧
    (∃ t, exec (.subn vf vf) s = .next t ∧ t.getV vf = 0) ∧
    (∀ z, ∃ t, exec (.shr vf z) s = .next t ∧ t.getV vf = 0) ∧
    (∀ z, ∃ t, exec (.shl vf z) s = .next t ∧ t.getV vf = if 127 < (s.getV vf).toNat then 2 else 0) ∧
    (∃ t, exec (.shr x vf) s = .next t ∧ t.getV x = s.getV x >>> 1 ∧ t.getV vf = s.getV x &&& 1) ∧
    (∃ t, exec (.shl x vf) s = .next t ∧ t.getV x = s.getV x <<< 1 ∧ t.getV vf = s.getV x >>> 7)

/-- CXKK: `V[X]` is a draw masked by KK, one draw for each execution; whatever the draw, bits clear in KK are clear in the
result (43_register_alu.md section 5; the draw has no law, decision D24, log 3). -/
def Obligations.RndMasksOneDraw : Prop :=
  ∀ (x : Reg) (kk : Byte) (s : State), ∃ t, exec (.rnd x kk) s = .next t ∧ t.ms.pc = s.ms.pc + 2 ∧
    t.getV x = Config.rand8 s.draws &&& kk ∧ (∀ k, kk.getLsbD k = false → (t.getV x).getLsbD k = false) ∧
    (∀ r, r ≠ x → t.getV r = s.getV r) ∧ t.draws = s.draws + 1 ∧
    t = { s with draws := t.draws, ms := { s.ms with pc := t.ms.pc, v := t.ms.v } } ∧ SameMemory s t

/-! ### Index and memory (44_index_memory.md) -/

/-- ANNN: `I` is NNN; FX29: `I` is five times `V[X]`, not reduced to its low nibble (R190, R192). -/
def Obligations.IndexLoads : Prop :=
  ∀ (x : Reg) (nnn : Addr) (s : State),
    (encode (.ldI nnn)).toNat = 0xA000 + nnn.toNat ∧ (encode (.ldFVx x)).toNat = 0xF029 + x.val * 0x100 ∧
    (∃ t, exec (.ldI nnn) s = .next t ∧ t.ms.pc = s.ms.pc + 2 ∧ t.ms.i.toNat = nnn.toNat ∧ t.ms.i.toNat ≤ 0xFFF ∧
      (∀ r, t.getV r = s.getV r) ∧ OnlyPcIndex s t) ∧
    (∃ t, exec (.ldFVx x) s = .next t ∧ t.ms.pc = s.ms.pc + 2 ∧ t.ms.i.toNat = 5 * (s.getV x).toNat ∧
      (∀ r, t.getV r = s.getV r) ∧ OnlyPcIndex s t)

/-- FX1E: `I` is the sum modulo 65536, and no `V` register changes, `VF` included (44_index_memory.md; that no flag is written
is decision D17, log 15). -/
def Obligations.AddIWrapsWithoutFlag : Prop :=
  ∀ (x : Reg) (s : State), ∃ t, exec (.addIVx x) s = .next t ∧ t.ms.pc = s.ms.pc + 2 ∧
    t.ms.i.toNat = (s.ms.i.toNat + (s.getV x).toNat) % 65536 ∧ (∀ r, t.getV r = s.getV r) ∧ OnlyPcIndex s t

/-- FX33: where its three bytes lie in memory, they are the decimal digits of `V[X]`, hundreds first, `I` is unchanged and so
is every other byte; where they do not, it raises MemoryOutOfRange and writes nothing (44_index_memory.md; the record and that
`PC` stays are decisions D10 and D11, log 9; memory in canonical form, which every step keeps, log 32). -/
def Obligations.BcdStoresThreeDigits : Prop :=
  ∀ (x : Reg) (s : State), (encode (.ldBVx x)).toNat = 0xF033 + x.val * 0x100 ∧
    (0xFFF < s.addrI + 2 → exec (.ldBVx x) s = .next { s with
      runState := .faulted { code := .memoryOutOfRange, pc := s.ms.pc, opcode := some (encode (.ldBVx x)),
                             info := .addr (s.addrI + 2) } }) ∧
    (s.memoryOk → s.addrI + 2 ≤ 0xFFF →
      ∃ t, exec (.ldBVx x) s = .next t ∧ t.ms.pc = s.ms.pc + 2 ∧
        (t.readByte s.addrI).toNat = (s.getV x).toNat / 100 ∧
        (t.readByte (s.addrI + 1)).toNat = (s.getV x).toNat / 10 % 10 ∧
        (t.readByte (s.addrI + 2)).toNat = (s.getV x).toNat % 10 ∧ OnlyPcBytes s t s.addrI 3)

/-- FX55, where its bytes lie in memory: byte `I + k` is `V[k]` for `k` up to X, `I` is unchanged (decision D16, log 15) and so
is every other byte (44_index_memory.md; log 32). -/
def Obligations.StoreRegsWritesBlock : Prop :=
  ∀ (x : Reg) (s : State), s.memoryOk → s.addrI + x.val ≤ 0xFFF →
    ∃ t, exec (.ldMemVx x) s = .next t ∧ t.ms.pc = s.ms.pc + 2 ∧
      (∀ k : Reg, k.val ≤ x.val → t.readByte (s.addrI + k.val) = s.getV k) ∧ OnlyPcBytes s t s.addrI (x.val + 1)

/-- FX65, where its bytes lie in memory: `V[k]` is byte `I + k` for `k` up to X, registers above X are unchanged, and so is `I`
(44_index_memory.md; decision D16, log 15). -/
def Obligations.LoadRegsReadsBlock : Prop :=
  ∀ (x : Reg) (s : State), s.addrI + x.val ≤ 0xFFF →
    ∃ t, exec (.ldVxMem x) s = .next t ∧ t.ms.pc = s.ms.pc + 2 ∧
      (∀ k : Reg, t.getV k = if k.val ≤ x.val then s.readByte (s.addrI + k.val) else s.getV k) ∧ OnlyPcRegs s t

/-! ### Keys and timers (45_timers_keys.md) -/

/-- EX9E and EXA1 with `V[X]` at most 0xF skip exactly 2 bytes when that key is, or is not, pressed (45_timers_keys.md
section 1; the fault above 0xF, decision D12, log 14, is stated with the fatal errors). -/
def Obligations.SkipOnKey : Prop :=
  ∀ (x : Reg) (k : Key) (s : State), (s.getV x).toNat = k.val →
    (∃ t, exec (.skp x) s = .next t ∧ OnlyPc s t ∧
      t.ms.pc = if s.keys.get k = true then s.ms.pc + 4 else s.ms.pc + 2) ∧
    (∃ t, exec (.sknp x) s = .next t ∧ OnlyPc s t ∧
      t.ms.pc = if s.keys.get k = true then s.ms.pc + 2 else s.ms.pc + 4)

/-- FX07: `V[X]` is `DT`; FX15 and FX18: `DT`, or `ST`, is `V[X]`; no instruction reads `ST` back (R212, R213, R214). -/
def Obligations.TimerAccess : Prop :=
  ∀ (x : Reg) (s : State),
    (encode (.ldVxDt x)).toNat = 0xF007 + x.val * 0x100 ∧
    (∃ t, exec (.ldVxDt x) s = .next t ∧ t.ms.pc = s.ms.pc + 2 ∧
      (∀ r, t.getV r = if r = x then s.ms.dt else s.getV r) ∧ OnlyPcRegs s t) ∧
    (encode (.ldDtVx x)).toNat = 0xF015 + x.val * 0x100 ∧ (encode (.ldStVx x)).toNat = 0xF018 + x.val * 0x100 ∧
    (∃ t, exec (.ldDtVx x) s = .next t ∧ t.ms.pc = s.ms.pc + 2 ∧ t.ms.dt = s.getV x ∧
      t = { s with ms := { s.ms with pc := t.ms.pc, dt := t.ms.dt } } ∧ SameMemory s t) ∧
    (∃ t, exec (.ldStVx x) s = .next t ∧ t.ms.pc = s.ms.pc + 2 ∧ t.ms.st = s.getV x ∧
      t = { s with ms := { s.ms with pc := t.ms.pc, st := t.ms.st } } ∧ SameMemory s t) ∧
    (∀ (i : Instr) (b : Byte), exec i { s with ms.st := b } =
      mapNext (fun t => { t with ms.st := if i.mnemonic = "LD_ST_VX" then t.ms.st else b }) (exec i s))

/-- FX0A completes at once: `wait` is `Waiting(X)`, `PC` is past it, and no register changes (R220). -/
def Obligations.LdVxKStartsWait : Prop :=
  ∀ (x : Reg) (s : State), (encode (.ldVxK x)).toNat = 0xF00A + x.val * 0x100 ∧
    ∃ t, exec (.ldVxK x) s = .next t ∧ t.ms.pc = s.ms.pc + 2 ∧ t.wait = .waiting x ∧ (∀ r, t.getV r = s.getV r) ∧
      t = { s with wait := t.wait, ms := { s.ms with pc := t.ms.pc } } ∧ SameMemory s t

/-- A `KeyDown` that matches key `k` sets `keys[k]` and, in a wait for `V[r]`, writes `k` there and ends the wait; no trace, no
publish (45_timers_keys.md section 4; decisions D21, D22, log 17 and 18). -/
def Obligations.KeyDownResolvesWait : Prop :=
  ∀ (s : State) (h : HostKey) (k : Key), keyOf s.cfg.keymap h = some k →
    (∀ j, (s.keyDown h).keys.get j = if j = k then true else s.keys.get j) ∧ (s.keyDown h).wait = .idle ∧
    (∀ r, s.wait = .waiting r →
      ((s.keyDown h).getV r).toNat = k.val ∧ ∀ q, q ≠ r → (s.keyDown h).getV q = s.getV q) ∧
    (s.wait = .idle → (s.keyDown h).ms = s.ms) ∧
    s.keyDown h = { s with keys := (s.keyDown h).keys, wait := .idle, ms := { s.ms with v := (s.keyDown h).ms.v } }

/-- A `KeyUp` clears its key and nothing else, whatever the wait; the wait does not affect what a `KeyUp`, EX9E or EXA1 does
to, or reads from, `keys`. A `KeyUp` or `KeyDown` whose code matches no key changes nothing (45_timers_keys.md section 4; the matching and
the ignored codes are decision D23, log 18). -/
def Obligations.KeyUpNeverAffectsWait : Prop :=
  ∀ (s : State) (h : HostKey) (w : Wait) (x : Reg),
    (∀ k, keyOf s.cfg.keymap h = some k →
      (∀ j, (s.keyUp h).keys.get j = if j = k then false else s.keys.get j) ∧
      s.keyUp h = { s with keys := (s.keyUp h).keys }) ∧
    (keyOf s.cfg.keymap h = none → s.keyUp h = s ∧ s.keyDown h = s) ∧ (s.keyUp h).wait = s.wait ∧
    ({ s with wait := w }.keyUp h).keys = (s.keyUp h).keys ∧
    ({ s with wait := w }.keyDown h).keys = (s.keyDown h).keys ∧
    exec (.skp x) { s with wait := w } = mapNext (fun t => { t with wait := w }) (exec (.skp x) s) ∧
    exec (.sknp x) { s with wait := w } = mapNext (fun t => { t with wait := w }) (exec (.sknp x) s)

/-- A host code, of whatever type the host's codes have, matches the lowest index whose KEYMAP entry it is, and none if there is no
such entry. The number the machine holds for a code, in the key map it holds, matches the same key, so a key event acts by the
host's own KEYMAP, and a code in no entry does nothing (45_timers_keys.md section 4, 00_scope.md section 4; decisions D23, D39,
log 6, 18). -/
def Obligations.LowestMatchingKeyWins : Prop :=
  ∀ (K : Type) [DecidableEq K] (keymap : Vector K 16) (h : K),
    (∀ k, keyOf keymap h = some k ↔ keymap.get k = h ∧ ∀ j, j.val < k.val → keymap.get j ≠ h) ∧
    (keyOf keymap h = none ↔ ∀ j, keymap.get j ≠ h) ∧
    keyOf (heldKeymap keymap) (heldCode keymap h) = keyOf keymap h ∧
    ∀ s : State, s.cfg.keymap = heldKeymap keymap →
      (∀ k, keyOf keymap h = some k →
        s.pollEvents [heldEvent keymap (.keyDown h)] = (s.setKey k true).resolveWait k ∧
        s.pollEvents [heldEvent keymap (.keyUp h)] = s.setKey k false) ∧
      (keyOf keymap h = none →
        s.pollEvents [heldEvent keymap (.keyDown h)] = s ∧ s.pollEvents [heldEvent keymap (.keyUp h)] = s) ∧
      (s.pollEvents [heldEvent keymap .quit]).runState = .stopped .hostQuit

/-- `wait` has exactly two transitions: Idle to Waiting(X) by executing FX0A, and Waiting(r) to Idle by a matching key press in
a poll; no other step changes it (R32). -/
def Obligations.WaitHasTwoTransitions : Prop :=
  (∀ w : Wait, w = .idle ∨ ∃ r, w = .waiting r) ∧
  (∀ s t : State, step s = .next t → t.wait ≠ s.wait →
    (∃ x, s.wait = .idle ∧ t.wait = .waiting x ∧ s.phase = .s3 ∧ s.fetched = .ldVxK x) ∨
    (∃ r h k, s.wait = .waiting r ∧ t.wait = .idle ∧ s.phase = .s4 ∧ .keyDown h ∈ s.hostQueue ∧
      keyOf s.cfg.keymap h = some k)) ∧
  (∀ (s : State) (x : Reg), ∃ t, exec (.ldVxK x) s = .next t ∧ t.wait = .waiting x) ∧
  (∀ (s : State) (h : HostKey) (k : Key), keyOf s.cfg.keymap h = some k → (s.keyDown h).wait = .idle) ∧
  (∀ (s : State) (h : HostKey) (b : Bool), (s.keyUp h).wait = s.wait ∧ (s.setPause b).wait = s.wait)

/-- While a key wait is pending no instruction is fetched or executed: S3 only moves on to S4, no step writes anything of Machine
State but the timers and the awaited register, both at S4, none writes the framebuffer, draws a random byte, publishes or raises a
fatal error, and the wait goes on, with every register as it was, unless a matching key press in a poll ends it
(40_execution_cycle.md section 1, 45_timers_keys.md section 4; the turns are the model's, log 1). -/
def Obligations.WaitBlocksInstructions : Prop :=
  ∀ (s : State) (r : Reg), s.wait = .waiting r →
    (∀ rest, s.threadMoves rest → s.phase = .s3 → step s = .next { s with turns := rest, phase := .s4 }) ∧
    (∀ t : State, step s = .next t →
      t.ms = { s.ms with v := t.ms.v, dt := t.ms.dt, st := t.ms.st } ∧ (s.phase ≠ .s4 → t.ms = s.ms) ∧
      (∀ a, t.readByte a = s.readByte a) ∧ t.fb = s.fb ∧ t.draws = s.draws ∧ t.snap.log = s.snap.log ∧
      t.snap.pub = s.snap.pub ∧ (∀ f, t.runState = .faulted f → s.runState = .faulted f) ∧
      ((t.wait = .waiting r ∧ t.ms.v = s.ms.v) ∨
        (t.wait = .idle ∧ s.phase = .s4 ∧ ∃ h k, .keyDown h ∈ s.hostQueue ∧ keyOf s.cfg.keymap h = some k ∧
          (t.getV r).toNat = k.val ∧ ∀ q, q ≠ r → t.getV q = s.getV q)))

/-! ### Scheduler, publisher, observer (60_exceptions.md) -/

/-- S1 samples the host's counter and checks the stop signal, and S2 fires the instruction gate when the period has passed
since it last fired, with no catch-up, reading the pause flag; the gates' periods at rates above 0 Hz are 1000 divided by the
rate, in whole milliseconds (60_exceptions.md sections 3 and 5, 00_scope.md section 4; decisions D2 to D5, D7, D31, log 2, 7, 19,
20; the counter's own advance `pace`, the turns, and that the request taken stays set are the model's, log 1, 2, 34; a rate of
0 Hz is left open, log 35). -/
def Obligations.StopCheckAndInstructionGate : Prop :=
  (∀ (s : State) (rest : List Turn), s.threadMoves rest →
    (s.phase = .s1 → step s = .next { s with
      turns := rest, clock := s.clock + s.pace, now := s.clock + s.pace,
      runState := if s.stopPending then .stopped .stopRequest else .running,
      phase := if s.stopPending then .s1 else .s2 }) ∧
    (s.phase = .s2 → s.lastInstr ≤ s.now → step s = .next
      (if s.lastInstr + s.cfg.pInstr ≤ s.now then
        { s with turns := rest, lastInstr := s.now, pausedSeen := s.snap.pause, phase := .s3 }
       else { s with turns := rest, phase := .s4 }))) ∧
  (∀ fInstr fTimer : Nat,
    (0 < fInstr → (Config.ofRates fInstr fTimer).pInstr * fInstr ≤ 1000 ∧
      1000 < ((Config.ofRates fInstr fTimer).pInstr + 1) * fInstr) ∧
    (0 < fTimer → (Config.ofRates fInstr fTimer).pTimer * fTimer ≤ 1000 ∧
      1000 < ((Config.ofRates fInstr fTimer).pTimer + 1) * fTimer))

/-- S4 at a firing: both timers go down by 1 and stay at 0, independently, unless the pause was last seen set; the framebuffer is
handed off; then the queued events are handled in order, as `State.pollEvents` handles them, and the iteration closes. A gate
that does not fire does nothing (60_exceptions.md section 3; decisions D4, D5, D6, log 19; the turns are the model's, log 1). -/
def Obligations.TimerTick : Prop :=
  ∀ (s : State) (rest : List Turn), s.threadMoves rest → s.phase = .s4 → s.lastTimer ≤ s.now →
    (s.now < s.lastTimer + s.cfg.pTimer → step s = .next { s with turns := rest, phase := .s1 }) ∧
    (s.lastTimer + s.cfg.pTimer ≤ s.now → ∃ (dt st : Byte) (t : State), step s = .next t ∧
      dt.toNat = (if s.pausedSeen then s.ms.dt.toNat else s.ms.dt.toNat - 1) ∧
      st.toNat = (if s.pausedSeen then s.ms.st.toNat else s.ms.st.toNat - 1) ∧
      t = { State.pollEvents { s with
              turns := rest, lastTimer := s.now, ms := { s.ms with dt := dt, st := st }, fbOut := some s.fb, hostQueue := [] }
            s.hostQueue with phase := .s1 } ∧
      t.ms.dt = dt ∧ t.ms.st = st ∧ t.lastTimer = s.now ∧ t.fbOut = some s.fb ∧ t.hostQueue = [] ∧ t.fb = s.fb ∧
      t.ms.pc = s.ms.pc ∧ t.snap = s.snap ∧ SameMemory s t ∧
      (.quit ∈ s.hostQueue ↔ t.runState = .stopped .hostQuit) ∧ (.quit ∉ s.hostQueue → t.runState = .running))

/-- The poll handles events in order: none changes nothing, a `KeyDown` or `KeyUp` takes its effect on the latch before the rest
is handled, and `Quit` ends the loop at once, so that what comes after it is not handled (60_exceptions.md sections 2 and 3;
decisions D22, D23, D31, D36, log 18 and 20). -/
def Obligations.QuitDropsLaterEvents : Prop :=
  ∀ (s : State) (h : HostKey) (before after : List HostEvent),
    s.pollEvents [] = s ∧
    s.pollEvents (.keyDown h :: after) = (s.keyDown h).pollEvents after ∧
    s.pollEvents (.keyUp h :: after) = (s.keyUp h).pollEvents after ∧
    (.quit ∉ before → s.pollEvents (before ++ after) = (s.pollEvents before).pollEvents after) ∧
    (.quit ∉ before →
      s.pollEvents (before ++ .quit :: after) = { s.pollEvents before with runState := .stopped .hostQuit })

/-- `fb_out` is set to a copy of the framebuffer at every timer-gate firing, paused or waiting or not, and at no other step; no
instruction reads it (60_exceptions.md section 3; the comparison that fires the gate and the handoff's place in S4 are decisions
D4 and D5, log 19; the turns are the model's, log 1). -/
def Obligations.FramebufferHandoff : Prop :=
  (∀ (s : State) (rest : List Turn), s.threadMoves rest → s.phase = .s4 → s.cfg.pTimer ≤ s.now - s.lastTimer →
    ∃ t, step s = .next t ∧ t.fbOut = some s.fb ∧ t.fb = s.fb) ∧
  (∀ s t : State, step s = .next t → t.fbOut ≠ s.fbOut →
    s.phase = .s4 ∧ s.cfg.pTimer ≤ s.now - s.lastTimer ∧ t.fbOut = some s.fb) ∧
  (∀ (i : Instr) (s : State) (f : Option Framebuffer),
    exec i { s with fbOut := f } = mapNext (fun t => { t with fbOut := f }) (exec i s))

/-- Two trace lines have the same text exactly when they have the same address and word, whatever DESCRIBE is: the
publisher's comparison of texts is one of pairs (40_execution_cycle.md section 5; decisions D19, D20, log 4). -/
def Obligations.TraceTextDeterminesLine : Prop :=
  ∀ l m : TraceLine, l.text = m.text ↔ l = m

/-- Publish: the line is appended, the oldest evicted beyond the capacity, unless `endloop` is set and the last logged text is the
line's; Machine State is copied in any case; nothing else changes (60_exceptions.md section 4; decisions D19 to D21,
log 4, 17). -/
def Obligations.PublishAppendsAndCopies : Prop :=
  ∀ (s : State) (l : TraceLine),
    (s.publish l).snap.pub = s.ms ∧ (s.publish l).snap.pause = s.snap.pause ∧
    s.publish l = { s with snap := (s.publish l).snap } ∧
    ((s.ms.endloop = true ∧ ∃ m, s.snap.log.getLast? = some m ∧ m.text = l.text) → (s.publish l).snap.log = s.snap.log) ∧
    ((s.ms.endloop = false ∨ ∀ m, s.snap.log.getLast? = some m → m.text ≠ l.text) →
      (s.publish l).snap.log =
        if s.snap.log.length < s.cfg.traceCap then s.snap.log ++ [l] else (s.snap.log ++ [l]).tail)

/-- The trace log is a FIFO of bounded length: its default capacity is 100, every step leaves it, or appends one line at the end
and drops at most the oldest, and its length never goes above the capacity (60_exceptions.md section 4; that it is empty at reset
is decision D25, log 8). -/
def Obligations.TraceLogIsBoundedFifo : Prop :=
  State.reset.cfg.traceCap = 100 ∧ State.reset.snap.log = [] ∧
  ∀ s t : State, s.snap.log.length ≤ s.cfg.traceCap → step s = .next t →
    t.snap.log.length ≤ t.cfg.traceCap ∧ t.cfg.traceCap = s.cfg.traceCap ∧
    (t.snap.log = s.snap.log ∨ ∃ l, t.snap.log = s.snap.log ++ [l] ∨
      (s.snap.log.length = s.cfg.traceCap ∧ t.snap.log = (s.snap.log ++ [l]).tail))

/-- The observer's operations change the pause flag, the stop request or the answer given, and nothing of the machine proper;
`read_snapshot` answers the log, the copy and the status together. While the observer's `stop()` is pending in a running loop
its next operation waits: the thread moves, and pause flag, request and answer stay (60_exceptions.md section 5, 10_state.md
section 8; decisions D31, D32, D37, log 20, 22, 24, 30). That a `stop()` after the end leaves the request as it is, is the model's
choice (log 34). -/
def Obligations.ObserverOperations : Prop :=
  ∀ (s : State) (op : ObserverOp) (rest : List Turn), s.turns = .observer op :: rest →
    (s.stopPending = true → s.runState = .running → step s = s.threadStep ∧
      ∀ t, step s = .next t → t.turns = s.turns ∧ t.snap.pause = s.snap.pause ∧ t.stopPending = true ∧ t.reply = s.reply) ∧
    (s.stopPending = false ∨ s.runState ≠ .running → ∃ t, step s = .next t ∧
      t = { s with turns := rest, snap := { s.snap with pause := t.snap.pause }, stopPending := t.stopPending,
                   reply := t.reply } ∧
      (∀ b, op = .setPause b → t.snap.pause = (if s.runState = .running then b else s.snap.pause) ∧
        t.stopPending = s.stopPending ∧ t.reply = s.reply) ∧
      (op = .stop → t.stopPending = (if s.runState = .running then true else s.stopPending) ∧
        t.snap.pause = s.snap.pause ∧ t.reply = s.reply) ∧
      (op = .readSnapshot → t.snap.pause = s.snap.pause ∧ t.stopPending = s.stopPending ∧
        ∃ p, t.reply = some p ∧ p.log = s.snap.log ∧ p.pub = s.snap.pub ∧
          (p.status = .running ↔ s.runState = .running ∧ s.snap.pause = false) ∧
          (p.status = .paused ↔ s.runState = .running ∧ s.snap.pause = true) ∧
          (∀ r, p.status = .stopped r ↔ s.runState = .stopped r) ∧
          (∀ r, p.status = .faulted r ↔ s.runState = .faulted r)))

/-- The turns of the thread, the host and the clock: a step of the running thread is its next sub-step, by its own turn, by none
listed, or in place of a blocked observer; an ended thread's turn passes; a host turn queues its event last; an `elapse` turn
moves the host's counter on (60_exceptions.md sections 3 and 4; the turns, the counter and the unbounded queue are the model's,
log 1, 2, 30, 31). -/
def Obligations.TurnsOfThreadHostAndClock : Prop :=
  ∀ (s : State) (rest : List Turn),
    (s.threadMoves rest → step s = { s with turns := rest }.threadStep) ∧
    (s.turns = .thread :: rest → s.runState ≠ .running → step s = .next { s with turns := rest }) ∧
    (∀ e, s.turns = .host e :: rest → step s = .next { s with turns := rest, hostQueue := s.hostQueue ++ [e] }) ∧
    (∀ n, s.turns = .elapse n :: rest → step s = .next { s with turns := rest, clock := s.clock + n })

/-- Once `run_state` has left Running, no step changes it, Machine State, the framebuffer, the latch, the wait or the Snapshot
Record; with nobody else to move, the model stops (60_exceptions.md sections 1 and 5; decisions D32, D37,
log 9, 20). -/
def Obligations.EndedLoopStaysEnded : Prop :=
  ∀ s : State, s.runState ≠ .running →
    (s.turns = [] → step s = .fault .terminated) ∧
    (∀ t, step s = .next t → t.runState = s.runState ∧ t.ms = s.ms ∧ t.fb = s.fb ∧ t.fbOut = s.fbOut ∧ t.keys = s.keys ∧
      t.wait = s.wait ∧ t.snap = s.snap)

/-- KEYMAP is the start argument, no step changes it, no instruction reads it, and no step but the one that handles host events,
S4 at a timer-gate firing, does (10_state.md section 3; the gate is decision D4, log 19). The other parameters do not change
either: that they stand in State is the model's choice (log 7). The machine holds the key map in its own numbers (log 6). -/
def Obligations.KeymapIsImmutable : Prop :=
  (∀ (cfg : Config) (program : List Byte) (keymap : Vector HostKey 16),
    (State.boot cfg program keymap).cfg.keymap = keymap) ∧
  (∀ (K : Type) [DecidableEq K] (cfg : Config) (program : List Byte) (keymap : Vector K 16) (s : State),
    State.start cfg true program keymap = .started s → s.cfg.keymap = heldKeymap keymap) ∧
  (∀ s t : State, step s = .next t → t.cfg = s.cfg) ∧
  (∀ (i : Instr) (s : State) (km : Vector HostKey 16),
    exec i { s with cfg.keymap := km } = mapNext (fun t => { t with cfg.keymap := km }) (exec i s)) ∧
  (∀ (s : State) (km : Vector HostKey 16),
    (∀ rest, s.threadMoves rest → s.phase = .s4 → s.now - s.lastTimer < s.cfg.pTimer) →
    step { s with cfg.keymap := km } = mapNext (fun t => { t with cfg.keymap := km }) (step s))

/-- `start`: an image of more than 0xE00 bytes, or a host that reports failure, gives no machine; otherwise the image lies at
0x200, FONT at 0, every other byte is 0, the key map is the argument in the model's numbers (log 6), and all else is as in `State.reset` (registers,
framebuffer, keys, wait, log, pause flag, times, `run_state`, first sub-step), with Machine State published; with an empty image
and the defaults it is `State.reset` (70_reset_and_hazards.md section 1; decisions D25, D26, D30, log 8, 27; the model's own
fields, the empty event queue among them, are log 1, 2, 3, 24, 31). -/
def Obligations.StartLoadsImage : Prop :=
  ∀ (K : Type) [DecidableEq K] (cfg : Config) (hostOk : Bool) (program : List Byte) (keymap : Vector K 16),
    (State.start cfg hostOk program keymap = .setupFailed ↔ 0xE00 < program.length ∨ hostOk = false) ∧
    (program.length ≤ 0xE00 → hostOk = true → ∃ s, State.start cfg hostOk program keymap = .started s ∧
      (∀ k (h : k < program.length), s.readByte (0x200 + k) = program[k]) ∧
      (∀ a (h : a < 80), s.readByte a = cfg.font[a]) ∧
      (∀ a, 80 ≤ a → (a < 0x200 ∨ 0x200 + program.length ≤ a) → s.readByte a = 0) ∧
      s = { State.reset with
        cfg := { cfg with keymap := heldKeymap keymap }
        ms := { State.reset.ms with mem := s.ms.mem }
        snap := { State.reset.snap with pub := s.ms } } ∧
      s.memoryOk) ∧
    State.start Config.default true [] Config.default.keymap = .started State.reset

/-- The state after reset: the entry point and the empty stack the source gives, the zero values the spec decided, and the default
rates, periods and capacity (10_state.md, 70_reset_and_hazards.md section 1, 00_scope.md section 4; decision D25, log 8; D3, D33,
log 7; D4, D6, D32, log 19, 22). -/
def Obligations.ResetValues : Prop :=
  State.reset.ms.pc = 0x200 ∧ State.reset.ms.sp = 0 ∧ (∀ r, State.reset.getV r = 0) ∧ State.reset.ms.i = 0 ∧
  (∀ k, State.reset.slot k = 0) ∧ State.reset.ms.dt = 0 ∧ State.reset.ms.st = 0 ∧ State.reset.ms.endloop = false ∧
  (∀ x y, State.reset.fb.cell x y = false) ∧ (∀ k, State.reset.keys.get k = false) ∧ State.reset.wait = .idle ∧
  State.reset.snap = { log := [], pub := State.reset.ms, pause := false } ∧ State.reset.lastInstr = 0 ∧
  State.reset.lastTimer = 0 ∧ State.reset.pausedSeen = false ∧ State.reset.stopPending = false ∧
  State.reset.runState = .running ∧ (∀ a, State.reset.readByte a = Memory.unlisted State.reset.cfg.font a) ∧
  State.reset.cfg = Config.ofRates 500 60 ∧ State.reset.cfg.pInstr = 2 ∧ State.reset.cfg.pTimer = 16 ∧
  State.reset.cfg.traceCap = 100

/-! ### Invariants -/

/-- The machine's invariant holds at reset. -/
def Obligations.InvariantAtReset : Prop := State.reset.Inv

/-- Every step keeps the machine's invariant: both memories in canonical form, the log within its capacity, `PC` at most 0x10FE
and return addresses at most 0x1000, the gates' times in the past, and an `endloop` that stands at a jump to itself whose line
is the last of the log (40_execution_cycle.md section 2, 60_exceptions.md sections 3 and 4). -/
def Obligations.StepKeepsInvariant : Prop :=
  ∀ s t : State, s.Inv → step s = .next t → t.Inv

/-- Once `endloop` is set, in a state that meets the invariant, every step keeps it set and leaves `PC`, memory and the trace log
as they are, and raises no fatal error: only the self-jump runs and its lines are suppressed (60_exceptions.md section 4, an
inference the spec marks as derived). -/
def Obligations.SelfLoopFreezesTrace : Prop :=
  ∀ s t : State, s.Inv → s.ms.endloop = true → step s = .next t →
    t.ms.endloop = true ∧ t.ms.pc = s.ms.pc ∧ SameMemory s t ∧ t.snap.log = s.snap.log ∧
      ∀ r, t.runState = .faulted r → s.runState = .faulted r
end

