-- ==== Sys2Proof/Laws/Codec.lean ====
section
/-! SUPPORT. The fields of a word as numbers, the words the encoder builds, and what the masks of the opcode map keep. -/

namespace Sys2Proof

/-! ### Fields as numbers (R71) -/

theorem fieldMajor_toNat (w : Word) : (fieldMajor w).toNat = w.toNat / 4096 := by
  have := w.isLt
  simp only [fieldMajor, BitVec.extractLsb'_toNat, Nat.shiftRight_eq_div_pow]
  omega

theorem fieldX_val (w : Word) : (fieldX w).val = w.toNat / 256 % 16 := by
  simp only [fieldX, BitVec.extractLsb'_toNat, Nat.shiftRight_eq_div_pow, BitVec.val_toFin]

theorem fieldY_val (w : Word) : (fieldY w).val = w.toNat / 16 % 16 := by
  simp only [fieldY, BitVec.extractLsb'_toNat, Nat.shiftRight_eq_div_pow, BitVec.val_toFin]

theorem fieldN_toNat (w : Word) : (fieldN w).toNat = w.toNat % 16 := by
  simp only [fieldN, BitVec.extractLsb'_toNat, Nat.shiftRight_zero]

theorem fieldKK_toNat (w : Word) : (fieldKK w).toNat = w.toNat % 256 := by
  simp only [fieldKK, BitVec.extractLsb'_toNat, Nat.shiftRight_zero]

theorem fieldNNN_toNat (w : Word) : (fieldNNN w).toNat = w.toNat % 4096 := by
  simp only [fieldNNN, BitVec.extractLsb'_toNat, Nat.shiftRight_zero]

/-! ### The encoder's words as numbers -/

theorem regField_toNat (r : Reg) : (regField r).toNat = r.val := by
  simp [regField]

theorem append_toNat {n m : Nat} (a : BitVec n) (b : BitVec m) : (a ++ b).toNat = a.toNat * 2 ^ m + b.toNat := by
  rw [BitVec.toNat_append, ← Nat.shiftLeft_add_eq_or_of_lt b.isLt, Nat.shiftLeft_eq]

theorem wordXK_toNat (m : Nibble) (x : Reg) (kk : Byte) :
    (wordXK m x kk).toNat = m.toNat * 4096 + x.val * 256 + kk.toNat := by
  simp only [wordXK, append_toNat, regField_toNat]
  omega

theorem wordXYN_toNat (m : Nibble) (x y : Reg) (n : Nibble) :
    (wordXYN m x y n).toNat = m.toNat * 4096 + x.val * 256 + y.val * 16 + n.toNat := by
  simp only [wordXYN, append_toNat, regField_toNat]
  omega

theorem wordA_toNat (m : Nibble) (nnn : Addr) : (wordA m nnn).toNat = m.toNat * 4096 + nnn.toNat := by
  simp only [wordA, append_toNat]
  omega

/-! ### Fields of the encoder's words -/

theorem fieldMajor_wordXK (m : Nibble) (x : Reg) (kk : Byte) : fieldMajor (wordXK m x kk) = m := by
  have := x.isLt
  have := kk.isLt
  apply BitVec.eq_of_toNat_eq
  rw [fieldMajor_toNat, wordXK_toNat]
  omega

theorem fieldX_wordXK (m : Nibble) (x : Reg) (kk : Byte) : fieldX (wordXK m x kk) = x := by
  have := x.isLt
  have := kk.isLt
  apply Fin.ext
  rw [fieldX_val, wordXK_toNat]
  omega

theorem fieldKK_wordXK (m : Nibble) (x : Reg) (kk : Byte) : fieldKK (wordXK m x kk) = kk := by
  have := kk.isLt
  apply BitVec.eq_of_toNat_eq
  rw [fieldKK_toNat, wordXK_toNat]
  omega

theorem fieldMajor_wordXYN (m : Nibble) (x y : Reg) (n : Nibble) : fieldMajor (wordXYN m x y n) = m := by
  have := x.isLt
  have := y.isLt
  have := n.isLt
  apply BitVec.eq_of_toNat_eq
  rw [fieldMajor_toNat, wordXYN_toNat]
  omega

theorem fieldX_wordXYN (m : Nibble) (x y : Reg) (n : Nibble) : fieldX (wordXYN m x y n) = x := by
  have := x.isLt
  have := y.isLt
  have := n.isLt
  apply Fin.ext
  rw [fieldX_val, wordXYN_toNat]
  omega

theorem fieldY_wordXYN (m : Nibble) (x y : Reg) (n : Nibble) : fieldY (wordXYN m x y n) = y := by
  have := y.isLt
  have := n.isLt
  apply Fin.ext
  rw [fieldY_val, wordXYN_toNat]
  omega

theorem fieldN_wordXYN (m : Nibble) (x y : Reg) (n : Nibble) : fieldN (wordXYN m x y n) = n := by
  have := n.isLt
  apply BitVec.eq_of_toNat_eq
  rw [fieldN_toNat, wordXYN_toNat]
  omega

theorem fieldMajor_wordA (m : Nibble) (nnn : Addr) : fieldMajor (wordA m nnn) = m := by
  have := nnn.isLt
  apply BitVec.eq_of_toNat_eq
  rw [fieldMajor_toNat, wordA_toNat]
  omega

theorem fieldNNN_wordA (m : Nibble) (nnn : Addr) : fieldNNN (wordA m nnn) = nnn := by
  have := nnn.isLt
  apply BitVec.eq_of_toNat_eq
  rw [fieldNNN_toNat, wordA_toNat]
  omega

/-! ### A word from its fields -/

theorem wordXK_of_fields (w : Word) (m : Nibble) (kk : Byte) (hm : (fieldMajor w).toNat = m.toNat)
    (hk : (fieldKK w).toNat = kk.toNat) : wordXK m (fieldX w) kk = w := by
  apply BitVec.eq_of_toNat_eq
  rw [fieldMajor_toNat] at hm
  rw [fieldKK_toNat] at hk
  rw [wordXK_toNat, fieldX_val]
  omega

theorem wordXYN_of_fields (w : Word) (m n : Nibble) (hm : (fieldMajor w).toNat = m.toNat)
    (hn : (fieldN w).toNat = n.toNat) : wordXYN m (fieldX w) (fieldY w) n = w := by
  apply BitVec.eq_of_toNat_eq
  rw [fieldMajor_toNat] at hm
  rw [fieldN_toNat] at hn
  rw [wordXYN_toNat, fieldX_val, fieldY_val]
  omega

theorem wordA_of_fields (w : Word) (m : Nibble) (hm : (fieldMajor w).toNat = m.toNat) :
    wordA m (fieldNNN w) = w := by
  apply BitVec.eq_of_toNat_eq
  rw [fieldMajor_toNat] at hm
  rw [wordA_toNat, fieldNNN_toNat]
  omega

/-! ### Masks of the opcode map (R74) -/

theorem mask_major (w : Word) : w &&& 0xF000#16 = wordXK (fieldMajor w) 0 0 := by
  apply BitVec.eq_of_toNat_eq
  have : w &&& 0xF000#16 = (fieldMajor w).setWidth 16 <<< 12 := by
    ext i hi
    simp only [fieldMajor]
    interval_cases i <;> simp
  rw [this, wordXK_toNat]
  have := (fieldMajor w).isLt
  simp [Nat.shiftLeft_eq]
  omega

theorem mask_major_n (w : Word) : w &&& 0xF00F#16 = wordXYN (fieldMajor w) 0 0 (fieldN w) := by
  apply BitVec.eq_of_toNat_eq
  have : w &&& 0xF00F#16 = (fieldMajor w).setWidth 16 <<< 12 ||| (fieldN w).setWidth 16 := by
    ext i hi
    simp only [fieldMajor, fieldN]
    interval_cases i <;> simp
  rw [this, wordXYN_toNat, BitVec.toNat_or, BitVec.toNat_shiftLeft]
  have h1 := (fieldMajor w).isLt
  have h2 := (fieldN w).isLt
  have e : (BitVec.setWidth 16 (fieldMajor w)).toNat <<< 12 % 2 ^ 16 = (fieldMajor w).toNat <<< 12 := by
    simp [Nat.shiftLeft_eq]; omega
  rw [e, BitVec.toNat_setWidth, Nat.mod_eq_of_lt (a := (fieldN w).toNat) (by omega),
    ← Nat.shiftLeft_add_eq_or_of_lt (by omega), Nat.shiftLeft_eq]
  simp

theorem mask_major_kk (w : Word) : w &&& 0xF0FF#16 = wordXK (fieldMajor w) 0 (fieldKK w) := by
  apply BitVec.eq_of_toNat_eq
  have : w &&& 0xF0FF#16 = (fieldMajor w).setWidth 16 <<< 12 ||| (fieldKK w).setWidth 16 := by
    ext i hi
    simp only [fieldMajor, fieldKK]
    interval_cases i <;> simp
  rw [this, wordXK_toNat, BitVec.toNat_or, BitVec.toNat_shiftLeft]
  have h1 := (fieldMajor w).isLt
  have h2 := (fieldKK w).isLt
  have e : (BitVec.setWidth 16 (fieldMajor w)).toNat <<< 12 % 2 ^ 16 = (fieldMajor w).toNat <<< 12 := by
    simp [Nat.shiftLeft_eq]; omega
  rw [e, BitVec.toNat_setWidth, Nat.mod_eq_of_lt (a := (fieldKK w).toNat) (by omega),
    ← Nat.shiftLeft_add_eq_or_of_lt (by omega), Nat.shiftLeft_eq]
  simp

/-- The two bytes of a word, put together big-endian, are the word (R51). -/
theorem wordOfBytes_bytes (w : Word) : wordOfBytes (w.extractLsb' 8 8) (w.extractLsb' 0 8) = w := by
  apply BitVec.eq_of_toNat_eq
  have := w.isLt
  rw [wordOfBytes, append_toNat]
  simp only [BitVec.extractLsb'_toNat, Nat.shiftRight_eq_div_pow]
  omega

end Sys2Proof
end

