-- ==== Sys2Proof/Laws/Framebuffer.lean ====
section
/-! SUPPORT. The laws of the framebuffer and of one sprite draw. -/

namespace Sys2Proof.Machine

/-- A toggle changes its cell and no other. -/
@[simp] theorem Framebuffer.cell_toggle (fb : Framebuffer) (x x' : Fin 64) (y y' : Fin 32) :
    (fb.toggle x y).cell x' y' = if x' = x ∧ y' = y then !fb.cell x y else fb.cell x' y' := by
  simp only [Framebuffer.toggle, Framebuffer.cell, Vector.get_eq_getElem, Vector.getElem_set]
  by_cases hx : x' = x
  · subst hx
    simp only [if_true, true_and, Vector.getElem_set, Fin.ext_iff, eq_comm (a := y.val)]
  · have : ¬ x.val = x'.val := fun h => hx (Fin.ext h.symm)
    simp [hx, this]

@[simp] theorem Framebuffer.cell_blank (x : Fin 64) (y : Fin 32) : Framebuffer.blank.cell x y = false := by
  simp [Framebuffer.blank, Framebuffer.cell, Vector.get_eq_getElem]

/-- Touching a list of distinct cells inverts exactly them, and the flag tells whether one of them was set (R127). -/
theorem touch_foldl (cells : List (Fin 64 × Fin 32)) (hd : cells.Nodup) (fb : Framebuffer) (f : Bool) :
    (∀ x y, (cells.foldl touchCell (fb, f)).1.cell x y = (fb.cell x y ^^ decide ((x, y) ∈ cells))) ∧
    (cells.foldl touchCell (fb, f)).2 = (f || cells.any fun c => fb.cell c.1 c.2) := by
  induction cells generalizing fb f with
  | nil => simp
  | cons c cells ih =>
    obtain ⟨hc, hd⟩ := List.nodup_cons.mp hd
    obtain ⟨ih1, ih2⟩ := ih hd (fb.toggle c.1 c.2) (f || fb.cell c.1 c.2)
    refine ⟨fun x y => ?_, ?_⟩
    · simp only [List.foldl_cons, touchCell]
      rw [ih1, Framebuffer.cell_toggle]
      by_cases h : (x, y) = c
      · subst h; simp [hc]
      · have h' : ¬ (x = c.1 ∧ y = c.2) := fun e => h (Prod.ext e.1 e.2)
        simp [h, h']
    · simp only [List.foldl_cons, touchCell, List.any_cons]
      rw [ih2, Bool.or_assoc]
      congr 2
      rw [Bool.eq_iff_iff, List.any_eq_true, List.any_eq_true]
      refine exists_congr fun d => and_congr_right fun hdm => ?_
      have h' : ¬ (d.1 = c.1 ∧ d.2 = c.2) := fun e => hc (Prod.ext e.1 e.2 ▸ hdm)
      simp [h']

theorem mem_setColumns (b : Byte) (col : Nat) : col ∈ setColumns b ↔ col < 8 ∧ b.getLsbD (7 - col) = true := by
  simp [setColumns]

/-- Which cells a sprite touches: those of its set bits, at wrapped coordinates (R121, R124). -/
theorem mem_spriteCells (x0 y0 : Byte) (row : Nat) (rows : List Byte) (c : Fin 64 × Fin 32) :
    c ∈ spriteCells x0 y0 row rows ↔
      ∃ k, ∃ h : k < rows.length, ∃ col, col < 8 ∧ rows[k].getLsbD (7 - col) = true ∧
        c = spriteCell x0 y0 col (row + k) := by
  induction rows generalizing row with
  | nil => simp [spriteCells]
  | cons b rows ih =>
    simp only [spriteCells, List.mem_append, List.mem_map, mem_setColumns, ih]
    constructor
    · rintro (⟨col, ⟨h1, h2⟩, rfl⟩ | ⟨k, hk, col, h1, h2, rfl⟩)
      · exact ⟨0, by simp, col, h1, h2, rfl⟩
      · refine ⟨k + 1, by simpa using hk, col, h1, by simpa using h2, ?_⟩
        rw [Nat.add_assoc, Nat.add_comm 1 k]
    · rintro ⟨k, hk, col, h1, h2, rfl⟩
      cases k with
      | zero => exact .inl ⟨col, ⟨h1, h2⟩, rfl⟩
      | succ k =>
        refine .inr ⟨k, by simpa using hk, col, h1, by simpa using h2, ?_⟩
        rw [Nat.add_assoc, Nat.add_comm 1 k]

theorem spriteCell_inj (x0 y0 : Byte) (c c' r r' : Nat) (hc : c < 8) (hc' : c' < 8) (hr : r - r' < 32) (hr' : r' - r < 32)
    (h : spriteCell x0 y0 c r = spriteCell x0 y0 c' r') : c = c' ∧ r = r' := by
  simp only [spriteCell, Prod.mk.injEq, Fin.ext_iff, Fin.val_ofNat] at h
  omega

/-- A sprite of at most 32 rows touches no cell twice (R127). -/
theorem nodup_spriteCells (x0 y0 : Byte) (row : Nat) (rows : List Byte) (h : rows.length ≤ 32) :
    (spriteCells x0 y0 row rows).Nodup := by
  induction rows generalizing row with
  | nil => simp [spriteCells]
  | cons b rows ih =>
    simp only [List.length_cons] at h
    refine List.nodup_append'.mpr ⟨?_, ih (row + 1) (by omega), ?_⟩
    · refine List.Nodup.map_on ?_ (List.nodup_range.filter _)
      intro c hc c' hc' e
      rw [mem_setColumns] at hc hc'
      exact (spriteCell_inj x0 y0 c c' row row hc.1 hc'.1 (by omega) (by omega) e).1
    · intro c hc hc'
      obtain ⟨col, hcol, rfl⟩ := List.mem_map.mp hc
      obtain ⟨k, hk, col', h1, -, e⟩ := (mem_spriteCells _ _ _ _ _).mp hc'
      rw [mem_setColumns] at hcol
      have := (spriteCell_inj x0 y0 col col' row (row + 1 + k) hcol.1 h1 (by omega) (by omega) e).2
      omega

/-- One draw: every touched cell is inverted, no other cell changes, and the flag tells whether a touched cell was set
(R122, R123). -/
theorem Framebuffer.draw_spec (fb : Framebuffer) (x0 y0 : Byte) (rows : List Byte) (h : rows.length ≤ 32) :
    (∀ x y, (fb.draw x0 y0 rows).1.cell x y = (fb.cell x y ^^ decide ((x, y) ∈ spriteCells x0 y0 0 rows))) ∧
    (fb.draw x0 y0 rows).2 = (spriteCells x0 y0 0 rows).any fun c => fb.cell c.1 c.2 := by
  have := touch_foldl (spriteCells x0 y0 0 rows) (nodup_spriteCells x0 y0 0 rows h) fb false
  simpa [Framebuffer.draw] using this

end Sys2Proof.Machine
end

