-- ==== Sys2Proof/Laws/Memory.lean ====
section
/-! SUPPORT. The laws of memory: a write is read back at its address and nowhere else, and every write keeps the
canonical form. -/

namespace Sys2Proof.Machine

/-- The cell list is sorted by address with no repeats. -/
abbrev Memory.sorted (m : Memory) : Prop := m.Pairwise fun c d => c.1 < d.1

theorem Memory.find_none_of_lt (a : Nat) (m : Memory) (h : ∀ c ∈ m, a < c.1) : Memory.find a m = none := by
  induction m with
  | nil => rfl
  | cons c rest ih =>
    obtain ⟨c, x⟩ := c
    have hc : a < c := h (c, x) (by simp)
    have hne : ¬ c = a := by omega
    simp only [Memory.find, if_neg hne]
    exact ih fun d hd => h d (by simp [hd])

/-- A write leaves every other address alone, in any cell list. -/
theorem Memory.find_put_other (u b : Byte) (a a' : Nat) (hne : a' ≠ a) (m : Memory) :
    Memory.find a' (Memory.put u a b m) = Memory.find a' m := by
  have hne' : ¬ a = a' := fun h => hne h.symm
  induction m with
  | nil =>
    simp only [Memory.put]
    split <;> simp [Memory.find, hne']
  | cons c rest ih =>
    obtain ⟨c, x⟩ := c
    simp only [Memory.put]
    split
    · split <;> simp [Memory.find, hne']
    · split
      · next hc => subst hc; split <;> simp [Memory.find, hne']
      · simp only [Memory.find, ih]

/-- What a write leaves at its own address: the byte, or no entry if it is what the address reads as unlisted. -/
theorem Memory.find_put_same (u b : Byte) (a : Nat) (m : Memory) (hs : m.sorted) :
    Memory.find a (Memory.put u a b m) = if b = u then none else some b := by
  induction m with
  | nil =>
    simp only [Memory.put]
    split <;> simp [Memory.find]
  | cons c rest ih =>
    obtain ⟨c, x⟩ := c
    have hrest : ∀ d ∈ rest, c < d.1 := fun _ hd => List.rel_of_pairwise_cons hs hd
    simp only [Memory.put]
    split
    · next hlt =>
      split
      · apply Memory.find_none_of_lt
        intro d hd
        rcases List.mem_cons.mp hd with rfl | hd
        · exact hlt
        · have := hrest d hd
          omega
      · simp [Memory.find]
    · split
      · next hc =>
        subst hc
        split
        · exact Memory.find_none_of_lt _ _ hrest
        · simp [Memory.find]
      · next hc =>
        have hne : ¬ c = a := fun h => hc h.symm
        simp only [Memory.find, if_neg hne]
        exact ih hs.of_cons

theorem Memory.put_mem (u b : Byte) (a : Nat) (m : Memory) (c : Host.Cell) (h : c ∈ Memory.put u a b m) :
    c ∈ m ∨ (c = (a, b) ∧ b ≠ u) := by
  induction m with
  | nil =>
    simp only [Memory.put] at h
    split at h
    · simp at h
    · simp at h
      exact .inr ⟨h, ‹_›⟩
  | cons d rest ih =>
    obtain ⟨d, x⟩ := d
    simp only [Memory.put] at h
    split at h
    · split at h
      · exact .inl h
      · rcases List.mem_cons.mp h with h | h
        · exact .inr ⟨h, ‹_›⟩
        · exact .inl h
    · split at h
      · split at h
        · exact .inl (List.mem_cons_of_mem _ h)
        · rcases List.mem_cons.mp h with h | h
          · exact .inr ⟨h, ‹_›⟩
          · exact .inl (List.mem_cons_of_mem _ h)
      · rcases List.mem_cons.mp h with h | h
        · exact .inl (h ▸ List.mem_cons_self)
        · rcases ih h with h | h
          · exact .inl (List.mem_cons_of_mem _ h)
          · exact .inr h

theorem Memory.put_sorted (u b : Byte) (a : Nat) (m : Memory) (hs : m.sorted) : (Memory.put u a b m).sorted := by
  induction m with
  | nil =>
    simp only [Memory.put]
    split <;> simp [Memory.sorted]
  | cons c rest ih =>
    obtain ⟨c, x⟩ := c
    have hrest : ∀ d ∈ rest, c < d.1 := fun _ hd => List.rel_of_pairwise_cons hs hd
    simp only [Memory.put]
    split
    · next hlt =>
      split
      · exact hs
      · refine List.Pairwise.cons ?_ hs
        intro d hd
        rcases List.mem_cons.mp hd with rfl | hd
        · exact hlt
        · have := hrest d hd
          show a < d.1
          omega
    · split
      · next hc =>
        subst hc
        split
        · exact hs.of_cons
        · exact List.Pairwise.cons hrest hs.of_cons
      · next hnlt hne =>
        refine List.Pairwise.cons ?_ (ih hs.of_cons)
        intro d hd
        rcases Memory.put_mem u b a rest d hd with hd | ⟨rfl, -⟩
        · exact hrest d hd
        · show c < a
          omega

/-- A write leaves every other address alone. -/
theorem Memory.read_write_other (font : Font) (m : Memory) (a a' : Nat) (b : Byte) (h : a' ≠ a) :
    Memory.read font (Memory.write font m a b) a' = Memory.read font m a' := by
  simp only [Memory.read, Memory.write, Memory.find_put_other _ _ _ _ h]

/-- A read after a write to the same address gives the byte written. -/
theorem Memory.read_write_same (font : Font) (m : Memory) (a : Nat) (b : Byte) (hs : m.sorted) :
    Memory.read font (Memory.write font m a b) a = b := by
  simp only [Memory.read, Memory.write, Memory.find_put_same _ _ _ _ hs]
  split <;> simp_all

/-- A write inside memory keeps the canonical form. -/
theorem Memory.wf_write (font : Font) (m : Memory) (a : Nat) (b : Byte) (h : m.wf font) (ha : a < memSize) :
    (Memory.write font m a b).wf font := by
  refine ⟨Memory.put_sorted _ _ _ _ h.1, fun c hc => ?_⟩
  rcases Memory.put_mem _ _ _ _ _ hc with hc | ⟨rfl, hb⟩
  · exact h.2 c hc
  · exact ⟨ha, hb⟩

/-- A block write inside memory keeps the canonical form. -/
theorem Memory.wf_writeBytes (font : Font) (m : Memory) (a : Nat) (bs : List Byte) (h : m.wf font)
    (ha : a + bs.length ≤ memSize) : (Memory.writeBytes font m a bs).wf font := by
  induction bs generalizing m a with
  | nil => exact h
  | cons b bs ih =>
    simp only [List.length_cons] at ha
    exact ih _ _ (Memory.wf_write font m a b h (by omega)) (by omega)

theorem Memory.sorted_writeBytes (font : Font) (m : Memory) (a : Nat) (bs : List Byte) (h : m.sorted) :
    (Memory.writeBytes font m a bs).sorted := by
  induction bs generalizing m a with
  | nil => exact h
  | cons b bs ih => exact ih _ _ (Memory.put_sorted _ _ _ _ h)

/-- A block write leaves every address outside the block alone. -/
theorem Memory.read_writeBytes_outside (font : Font) (m : Memory) (a a' : Nat) (bs : List Byte)
    (h : a' < a ∨ a + bs.length ≤ a') :
    Memory.read font (Memory.writeBytes font m a bs) a' = Memory.read font m a' := by
  induction bs generalizing m a with
  | nil => rfl
  | cons b bs ih =>
    simp only [List.length_cons] at h
    simp only [Memory.writeBytes]
    rw [ih _ _ (by omega), Memory.read_write_other _ _ _ _ _ (by omega)]

/-- A block write is read back inside the block. -/
theorem Memory.read_writeBytes_inside (font : Font) (m : Memory) (a k : Nat) (bs : List Byte) (hs : m.sorted)
    (h : k < bs.length) : Memory.read font (Memory.writeBytes font m a bs) (a + k) = bs[k] := by
  induction bs generalizing m a k with
  | nil => simp at h
  | cons b bs ih =>
    simp only [Memory.writeBytes]
    cases k with
    | zero =>
      rw [Memory.read_writeBytes_outside _ _ _ _ _ (by omega)]
      simpa using Memory.read_write_same font m a b hs
    | succ k =>
      have := ih (Memory.write font m a b) (a + 1) k (Memory.put_sorted _ _ _ _ hs) (by simpa using h)
      simpa [Nat.add_assoc, Nat.add_comm 1 k] using this

/-- Memory with nothing listed is in canonical form. -/
theorem Memory.wf_nil (font : Font) : Memory.wf font [] := by simp [Memory.wf]

end Sys2Proof.Machine
end

