-- ==== Sys2Proof/Laws/State.lean ====
section
/-! SUPPORT. What each state operation does to each field, by definition: later proofs cite these and unfold no record
update. -/

namespace Sys2Proof.Machine

/-! ### `State.jump` -/

@[simp] theorem State.jump_cfg (s : State) (w : Word) : (s.jump w).cfg = s.cfg := rfl
@[simp] theorem State.jump_ms_mem (s : State) (w : Word) : (s.jump w).ms.mem = s.ms.mem := rfl
@[simp] theorem State.jump_ms_v (s : State) (w : Word) : (s.jump w).ms.v = s.ms.v := rfl
@[simp] theorem State.jump_ms_i (s : State) (w : Word) : (s.jump w).ms.i = s.ms.i := rfl
@[simp] theorem State.jump_ms_pc (s : State) (w : Word) : (s.jump w).ms.pc = w := rfl
@[simp] theorem State.jump_ms_stack (s : State) (w : Word) : (s.jump w).ms.stack = s.ms.stack := rfl
@[simp] theorem State.jump_ms_sp (s : State) (w : Word) : (s.jump w).ms.sp = s.ms.sp := rfl
@[simp] theorem State.jump_ms_dt (s : State) (w : Word) : (s.jump w).ms.dt = s.ms.dt := rfl
@[simp] theorem State.jump_ms_st (s : State) (w : Word) : (s.jump w).ms.st = s.ms.st := rfl
@[simp] theorem State.jump_ms_endloop (s : State) (w : Word) : (s.jump w).ms.endloop = s.ms.endloop := rfl
@[simp] theorem State.jump_fb (s : State) (w : Word) : (s.jump w).fb = s.fb := rfl
@[simp] theorem State.jump_keys (s : State) (w : Word) : (s.jump w).keys = s.keys := rfl
@[simp] theorem State.jump_wait (s : State) (w : Word) : (s.jump w).wait = s.wait := rfl
@[simp] theorem State.jump_snap (s : State) (w : Word) : (s.jump w).snap = s.snap := rfl
@[simp] theorem State.jump_phase (s : State) (w : Word) : (s.jump w).phase = s.phase := rfl
@[simp] theorem State.jump_now (s : State) (w : Word) : (s.jump w).now = s.now := rfl
@[simp] theorem State.jump_lastInstr (s : State) (w : Word) : (s.jump w).lastInstr = s.lastInstr := rfl
@[simp] theorem State.jump_lastTimer (s : State) (w : Word) : (s.jump w).lastTimer = s.lastTimer := rfl
@[simp] theorem State.jump_pausedSeen (s : State) (w : Word) : (s.jump w).pausedSeen = s.pausedSeen := rfl
@[simp] theorem State.jump_stopPending (s : State) (w : Word) : (s.jump w).stopPending = s.stopPending := rfl
@[simp] theorem State.jump_runState (s : State) (w : Word) : (s.jump w).runState = s.runState := rfl
@[simp] theorem State.jump_fbOut (s : State) (w : Word) : (s.jump w).fbOut = s.fbOut := rfl
@[simp] theorem State.jump_reply (s : State) (w : Word) : (s.jump w).reply = s.reply := rfl
@[simp] theorem State.jump_hostQueue (s : State) (w : Word) : (s.jump w).hostQueue = s.hostQueue := rfl
@[simp] theorem State.jump_clock (s : State) (w : Word) : (s.jump w).clock = s.clock := rfl
@[simp] theorem State.jump_pace (s : State) (w : Word) : (s.jump w).pace = s.pace := rfl
@[simp] theorem State.jump_turns (s : State) (w : Word) : (s.jump w).turns = s.turns := rfl
@[simp] theorem State.jump_draws (s : State) (w : Word) : (s.jump w).draws = s.draws := rfl

/-! ### `State.advance` -/

@[simp] theorem State.advance_cfg (s : State) : (s.advance).cfg = s.cfg := rfl
@[simp] theorem State.advance_ms_mem (s : State) : (s.advance).ms.mem = s.ms.mem := rfl
@[simp] theorem State.advance_ms_v (s : State) : (s.advance).ms.v = s.ms.v := rfl
@[simp] theorem State.advance_ms_i (s : State) : (s.advance).ms.i = s.ms.i := rfl
@[simp] theorem State.advance_ms_pc (s : State) : (s.advance).ms.pc = s.ms.pc + 2 := rfl
@[simp] theorem State.advance_ms_stack (s : State) : (s.advance).ms.stack = s.ms.stack := rfl
@[simp] theorem State.advance_ms_sp (s : State) : (s.advance).ms.sp = s.ms.sp := rfl
@[simp] theorem State.advance_ms_dt (s : State) : (s.advance).ms.dt = s.ms.dt := rfl
@[simp] theorem State.advance_ms_st (s : State) : (s.advance).ms.st = s.ms.st := rfl
@[simp] theorem State.advance_ms_endloop (s : State) : (s.advance).ms.endloop = s.ms.endloop := rfl
@[simp] theorem State.advance_fb (s : State) : (s.advance).fb = s.fb := rfl
@[simp] theorem State.advance_keys (s : State) : (s.advance).keys = s.keys := rfl
@[simp] theorem State.advance_wait (s : State) : (s.advance).wait = s.wait := rfl
@[simp] theorem State.advance_snap (s : State) : (s.advance).snap = s.snap := rfl
@[simp] theorem State.advance_phase (s : State) : (s.advance).phase = s.phase := rfl
@[simp] theorem State.advance_now (s : State) : (s.advance).now = s.now := rfl
@[simp] theorem State.advance_lastInstr (s : State) : (s.advance).lastInstr = s.lastInstr := rfl
@[simp] theorem State.advance_lastTimer (s : State) : (s.advance).lastTimer = s.lastTimer := rfl
@[simp] theorem State.advance_pausedSeen (s : State) : (s.advance).pausedSeen = s.pausedSeen := rfl
@[simp] theorem State.advance_stopPending (s : State) : (s.advance).stopPending = s.stopPending := rfl
@[simp] theorem State.advance_runState (s : State) : (s.advance).runState = s.runState := rfl
@[simp] theorem State.advance_fbOut (s : State) : (s.advance).fbOut = s.fbOut := rfl
@[simp] theorem State.advance_reply (s : State) : (s.advance).reply = s.reply := rfl
@[simp] theorem State.advance_hostQueue (s : State) : (s.advance).hostQueue = s.hostQueue := rfl
@[simp] theorem State.advance_clock (s : State) : (s.advance).clock = s.clock := rfl
@[simp] theorem State.advance_pace (s : State) : (s.advance).pace = s.pace := rfl
@[simp] theorem State.advance_turns (s : State) : (s.advance).turns = s.turns := rfl
@[simp] theorem State.advance_draws (s : State) : (s.advance).draws = s.draws := rfl

/-! ### `State.setV` -/

@[simp] theorem State.setV_cfg (s : State) (x : Reg) (b : Byte) : (s.setV x b).cfg = s.cfg := rfl
@[simp] theorem State.setV_ms_mem (s : State) (x : Reg) (b : Byte) : (s.setV x b).ms.mem = s.ms.mem := rfl
@[simp] theorem State.setV_ms_v (s : State) (x : Reg) (b : Byte) : (s.setV x b).ms.v = s.ms.v.set x.val b := rfl
@[simp] theorem State.setV_ms_i (s : State) (x : Reg) (b : Byte) : (s.setV x b).ms.i = s.ms.i := rfl
@[simp] theorem State.setV_ms_pc (s : State) (x : Reg) (b : Byte) : (s.setV x b).ms.pc = s.ms.pc := rfl
@[simp] theorem State.setV_ms_stack (s : State) (x : Reg) (b : Byte) : (s.setV x b).ms.stack = s.ms.stack := rfl
@[simp] theorem State.setV_ms_sp (s : State) (x : Reg) (b : Byte) : (s.setV x b).ms.sp = s.ms.sp := rfl
@[simp] theorem State.setV_ms_dt (s : State) (x : Reg) (b : Byte) : (s.setV x b).ms.dt = s.ms.dt := rfl
@[simp] theorem State.setV_ms_st (s : State) (x : Reg) (b : Byte) : (s.setV x b).ms.st = s.ms.st := rfl
@[simp] theorem State.setV_ms_endloop (s : State) (x : Reg) (b : Byte) : (s.setV x b).ms.endloop = s.ms.endloop := rfl
@[simp] theorem State.setV_fb (s : State) (x : Reg) (b : Byte) : (s.setV x b).fb = s.fb := rfl
@[simp] theorem State.setV_keys (s : State) (x : Reg) (b : Byte) : (s.setV x b).keys = s.keys := rfl
@[simp] theorem State.setV_wait (s : State) (x : Reg) (b : Byte) : (s.setV x b).wait = s.wait := rfl
@[simp] theorem State.setV_snap (s : State) (x : Reg) (b : Byte) : (s.setV x b).snap = s.snap := rfl
@[simp] theorem State.setV_phase (s : State) (x : Reg) (b : Byte) : (s.setV x b).phase = s.phase := rfl
@[simp] theorem State.setV_now (s : State) (x : Reg) (b : Byte) : (s.setV x b).now = s.now := rfl
@[simp] theorem State.setV_lastInstr (s : State) (x : Reg) (b : Byte) : (s.setV x b).lastInstr = s.lastInstr := rfl
@[simp] theorem State.setV_lastTimer (s : State) (x : Reg) (b : Byte) : (s.setV x b).lastTimer = s.lastTimer := rfl
@[simp] theorem State.setV_pausedSeen (s : State) (x : Reg) (b : Byte) : (s.setV x b).pausedSeen = s.pausedSeen := rfl
@[simp] theorem State.setV_stopPending (s : State) (x : Reg) (b : Byte) : (s.setV x b).stopPending = s.stopPending := rfl
@[simp] theorem State.setV_runState (s : State) (x : Reg) (b : Byte) : (s.setV x b).runState = s.runState := rfl
@[simp] theorem State.setV_fbOut (s : State) (x : Reg) (b : Byte) : (s.setV x b).fbOut = s.fbOut := rfl
@[simp] theorem State.setV_reply (s : State) (x : Reg) (b : Byte) : (s.setV x b).reply = s.reply := rfl
@[simp] theorem State.setV_hostQueue (s : State) (x : Reg) (b : Byte) : (s.setV x b).hostQueue = s.hostQueue := rfl
@[simp] theorem State.setV_clock (s : State) (x : Reg) (b : Byte) : (s.setV x b).clock = s.clock := rfl
@[simp] theorem State.setV_pace (s : State) (x : Reg) (b : Byte) : (s.setV x b).pace = s.pace := rfl
@[simp] theorem State.setV_turns (s : State) (x : Reg) (b : Byte) : (s.setV x b).turns = s.turns := rfl
@[simp] theorem State.setV_draws (s : State) (x : Reg) (b : Byte) : (s.setV x b).draws = s.draws := rfl

/-! ### `State.loadV` -/

@[simp] theorem State.loadV_cfg (s : State) (x : Reg) (bs : List Byte) : (s.loadV x bs).cfg = s.cfg := by simp only [State.loadV]
@[simp] theorem State.loadV_ms_mem (s : State) (x : Reg) (bs : List Byte) : (s.loadV x bs).ms.mem = s.ms.mem := by simp only [State.loadV]
@[simp] theorem State.loadV_ms_v (s : State) (x : Reg) (bs : List Byte) : (s.loadV x bs).ms.v = loadBlock s.ms.v x bs := by simp only [State.loadV]
@[simp] theorem State.loadV_ms_i (s : State) (x : Reg) (bs : List Byte) : (s.loadV x bs).ms.i = s.ms.i := by simp only [State.loadV]
@[simp] theorem State.loadV_ms_pc (s : State) (x : Reg) (bs : List Byte) : (s.loadV x bs).ms.pc = s.ms.pc := by simp only [State.loadV]
@[simp] theorem State.loadV_ms_stack (s : State) (x : Reg) (bs : List Byte) : (s.loadV x bs).ms.stack = s.ms.stack := by simp only [State.loadV]
@[simp] theorem State.loadV_ms_sp (s : State) (x : Reg) (bs : List Byte) : (s.loadV x bs).ms.sp = s.ms.sp := by simp only [State.loadV]
@[simp] theorem State.loadV_ms_dt (s : State) (x : Reg) (bs : List Byte) : (s.loadV x bs).ms.dt = s.ms.dt := by simp only [State.loadV]
@[simp] theorem State.loadV_ms_st (s : State) (x : Reg) (bs : List Byte) : (s.loadV x bs).ms.st = s.ms.st := by simp only [State.loadV]
@[simp] theorem State.loadV_ms_endloop (s : State) (x : Reg) (bs : List Byte) : (s.loadV x bs).ms.endloop = s.ms.endloop := by simp only [State.loadV]
@[simp] theorem State.loadV_fb (s : State) (x : Reg) (bs : List Byte) : (s.loadV x bs).fb = s.fb := by simp only [State.loadV]
@[simp] theorem State.loadV_keys (s : State) (x : Reg) (bs : List Byte) : (s.loadV x bs).keys = s.keys := by simp only [State.loadV]
@[simp] theorem State.loadV_wait (s : State) (x : Reg) (bs : List Byte) : (s.loadV x bs).wait = s.wait := by simp only [State.loadV]
@[simp] theorem State.loadV_snap (s : State) (x : Reg) (bs : List Byte) : (s.loadV x bs).snap = s.snap := by simp only [State.loadV]
@[simp] theorem State.loadV_phase (s : State) (x : Reg) (bs : List Byte) : (s.loadV x bs).phase = s.phase := by simp only [State.loadV]
@[simp] theorem State.loadV_now (s : State) (x : Reg) (bs : List Byte) : (s.loadV x bs).now = s.now := by simp only [State.loadV]
@[simp] theorem State.loadV_lastInstr (s : State) (x : Reg) (bs : List Byte) : (s.loadV x bs).lastInstr = s.lastInstr := by simp only [State.loadV]
@[simp] theorem State.loadV_lastTimer (s : State) (x : Reg) (bs : List Byte) : (s.loadV x bs).lastTimer = s.lastTimer := by simp only [State.loadV]
@[simp] theorem State.loadV_pausedSeen (s : State) (x : Reg) (bs : List Byte) : (s.loadV x bs).pausedSeen = s.pausedSeen := by simp only [State.loadV]
@[simp] theorem State.loadV_stopPending (s : State) (x : Reg) (bs : List Byte) : (s.loadV x bs).stopPending = s.stopPending := by simp only [State.loadV]
@[simp] theorem State.loadV_runState (s : State) (x : Reg) (bs : List Byte) : (s.loadV x bs).runState = s.runState := by simp only [State.loadV]
@[simp] theorem State.loadV_fbOut (s : State) (x : Reg) (bs : List Byte) : (s.loadV x bs).fbOut = s.fbOut := by simp only [State.loadV]
@[simp] theorem State.loadV_reply (s : State) (x : Reg) (bs : List Byte) : (s.loadV x bs).reply = s.reply := by simp only [State.loadV]
@[simp] theorem State.loadV_hostQueue (s : State) (x : Reg) (bs : List Byte) : (s.loadV x bs).hostQueue = s.hostQueue := by simp only [State.loadV]
@[simp] theorem State.loadV_clock (s : State) (x : Reg) (bs : List Byte) : (s.loadV x bs).clock = s.clock := by simp only [State.loadV]
@[simp] theorem State.loadV_pace (s : State) (x : Reg) (bs : List Byte) : (s.loadV x bs).pace = s.pace := by simp only [State.loadV]
@[simp] theorem State.loadV_turns (s : State) (x : Reg) (bs : List Byte) : (s.loadV x bs).turns = s.turns := by simp only [State.loadV]
@[simp] theorem State.loadV_draws (s : State) (x : Reg) (bs : List Byte) : (s.loadV x bs).draws = s.draws := by simp only [State.loadV]

/-! ### `State.setI` -/

@[simp] theorem State.setI_cfg (s : State) (w : Word) : (s.setI w).cfg = s.cfg := rfl
@[simp] theorem State.setI_ms_mem (s : State) (w : Word) : (s.setI w).ms.mem = s.ms.mem := rfl
@[simp] theorem State.setI_ms_v (s : State) (w : Word) : (s.setI w).ms.v = s.ms.v := rfl
@[simp] theorem State.setI_ms_i (s : State) (w : Word) : (s.setI w).ms.i = w := rfl
@[simp] theorem State.setI_ms_pc (s : State) (w : Word) : (s.setI w).ms.pc = s.ms.pc := rfl
@[simp] theorem State.setI_ms_stack (s : State) (w : Word) : (s.setI w).ms.stack = s.ms.stack := rfl
@[simp] theorem State.setI_ms_sp (s : State) (w : Word) : (s.setI w).ms.sp = s.ms.sp := rfl
@[simp] theorem State.setI_ms_dt (s : State) (w : Word) : (s.setI w).ms.dt = s.ms.dt := rfl
@[simp] theorem State.setI_ms_st (s : State) (w : Word) : (s.setI w).ms.st = s.ms.st := rfl
@[simp] theorem State.setI_ms_endloop (s : State) (w : Word) : (s.setI w).ms.endloop = s.ms.endloop := rfl
@[simp] theorem State.setI_fb (s : State) (w : Word) : (s.setI w).fb = s.fb := rfl
@[simp] theorem State.setI_keys (s : State) (w : Word) : (s.setI w).keys = s.keys := rfl
@[simp] theorem State.setI_wait (s : State) (w : Word) : (s.setI w).wait = s.wait := rfl
@[simp] theorem State.setI_snap (s : State) (w : Word) : (s.setI w).snap = s.snap := rfl
@[simp] theorem State.setI_phase (s : State) (w : Word) : (s.setI w).phase = s.phase := rfl
@[simp] theorem State.setI_now (s : State) (w : Word) : (s.setI w).now = s.now := rfl
@[simp] theorem State.setI_lastInstr (s : State) (w : Word) : (s.setI w).lastInstr = s.lastInstr := rfl
@[simp] theorem State.setI_lastTimer (s : State) (w : Word) : (s.setI w).lastTimer = s.lastTimer := rfl
@[simp] theorem State.setI_pausedSeen (s : State) (w : Word) : (s.setI w).pausedSeen = s.pausedSeen := rfl
@[simp] theorem State.setI_stopPending (s : State) (w : Word) : (s.setI w).stopPending = s.stopPending := rfl
@[simp] theorem State.setI_runState (s : State) (w : Word) : (s.setI w).runState = s.runState := rfl
@[simp] theorem State.setI_fbOut (s : State) (w : Word) : (s.setI w).fbOut = s.fbOut := rfl
@[simp] theorem State.setI_reply (s : State) (w : Word) : (s.setI w).reply = s.reply := rfl
@[simp] theorem State.setI_hostQueue (s : State) (w : Word) : (s.setI w).hostQueue = s.hostQueue := rfl
@[simp] theorem State.setI_clock (s : State) (w : Word) : (s.setI w).clock = s.clock := rfl
@[simp] theorem State.setI_pace (s : State) (w : Word) : (s.setI w).pace = s.pace := rfl
@[simp] theorem State.setI_turns (s : State) (w : Word) : (s.setI w).turns = s.turns := rfl
@[simp] theorem State.setI_draws (s : State) (w : Word) : (s.setI w).draws = s.draws := rfl

/-! ### `State.setDt` -/

@[simp] theorem State.setDt_cfg (s : State) (b : Byte) : (s.setDt b).cfg = s.cfg := rfl
@[simp] theorem State.setDt_ms_mem (s : State) (b : Byte) : (s.setDt b).ms.mem = s.ms.mem := rfl
@[simp] theorem State.setDt_ms_v (s : State) (b : Byte) : (s.setDt b).ms.v = s.ms.v := rfl
@[simp] theorem State.setDt_ms_i (s : State) (b : Byte) : (s.setDt b).ms.i = s.ms.i := rfl
@[simp] theorem State.setDt_ms_pc (s : State) (b : Byte) : (s.setDt b).ms.pc = s.ms.pc := rfl
@[simp] theorem State.setDt_ms_stack (s : State) (b : Byte) : (s.setDt b).ms.stack = s.ms.stack := rfl
@[simp] theorem State.setDt_ms_sp (s : State) (b : Byte) : (s.setDt b).ms.sp = s.ms.sp := rfl
@[simp] theorem State.setDt_ms_dt (s : State) (b : Byte) : (s.setDt b).ms.dt = b := rfl
@[simp] theorem State.setDt_ms_st (s : State) (b : Byte) : (s.setDt b).ms.st = s.ms.st := rfl
@[simp] theorem State.setDt_ms_endloop (s : State) (b : Byte) : (s.setDt b).ms.endloop = s.ms.endloop := rfl
@[simp] theorem State.setDt_fb (s : State) (b : Byte) : (s.setDt b).fb = s.fb := rfl
@[simp] theorem State.setDt_keys (s : State) (b : Byte) : (s.setDt b).keys = s.keys := rfl
@[simp] theorem State.setDt_wait (s : State) (b : Byte) : (s.setDt b).wait = s.wait := rfl
@[simp] theorem State.setDt_snap (s : State) (b : Byte) : (s.setDt b).snap = s.snap := rfl
@[simp] theorem State.setDt_phase (s : State) (b : Byte) : (s.setDt b).phase = s.phase := rfl
@[simp] theorem State.setDt_now (s : State) (b : Byte) : (s.setDt b).now = s.now := rfl
@[simp] theorem State.setDt_lastInstr (s : State) (b : Byte) : (s.setDt b).lastInstr = s.lastInstr := rfl
@[simp] theorem State.setDt_lastTimer (s : State) (b : Byte) : (s.setDt b).lastTimer = s.lastTimer := rfl
@[simp] theorem State.setDt_pausedSeen (s : State) (b : Byte) : (s.setDt b).pausedSeen = s.pausedSeen := rfl
@[simp] theorem State.setDt_stopPending (s : State) (b : Byte) : (s.setDt b).stopPending = s.stopPending := rfl
@[simp] theorem State.setDt_runState (s : State) (b : Byte) : (s.setDt b).runState = s.runState := rfl
@[simp] theorem State.setDt_fbOut (s : State) (b : Byte) : (s.setDt b).fbOut = s.fbOut := rfl
@[simp] theorem State.setDt_reply (s : State) (b : Byte) : (s.setDt b).reply = s.reply := rfl
@[simp] theorem State.setDt_hostQueue (s : State) (b : Byte) : (s.setDt b).hostQueue = s.hostQueue := rfl
@[simp] theorem State.setDt_clock (s : State) (b : Byte) : (s.setDt b).clock = s.clock := rfl
@[simp] theorem State.setDt_pace (s : State) (b : Byte) : (s.setDt b).pace = s.pace := rfl
@[simp] theorem State.setDt_turns (s : State) (b : Byte) : (s.setDt b).turns = s.turns := rfl
@[simp] theorem State.setDt_draws (s : State) (b : Byte) : (s.setDt b).draws = s.draws := rfl

/-! ### `State.setSt` -/

@[simp] theorem State.setSt_cfg (s : State) (b : Byte) : (s.setSt b).cfg = s.cfg := rfl
@[simp] theorem State.setSt_ms_mem (s : State) (b : Byte) : (s.setSt b).ms.mem = s.ms.mem := rfl
@[simp] theorem State.setSt_ms_v (s : State) (b : Byte) : (s.setSt b).ms.v = s.ms.v := rfl
@[simp] theorem State.setSt_ms_i (s : State) (b : Byte) : (s.setSt b).ms.i = s.ms.i := rfl
@[simp] theorem State.setSt_ms_pc (s : State) (b : Byte) : (s.setSt b).ms.pc = s.ms.pc := rfl
@[simp] theorem State.setSt_ms_stack (s : State) (b : Byte) : (s.setSt b).ms.stack = s.ms.stack := rfl
@[simp] theorem State.setSt_ms_sp (s : State) (b : Byte) : (s.setSt b).ms.sp = s.ms.sp := rfl
@[simp] theorem State.setSt_ms_dt (s : State) (b : Byte) : (s.setSt b).ms.dt = s.ms.dt := rfl
@[simp] theorem State.setSt_ms_st (s : State) (b : Byte) : (s.setSt b).ms.st = b := rfl
@[simp] theorem State.setSt_ms_endloop (s : State) (b : Byte) : (s.setSt b).ms.endloop = s.ms.endloop := rfl
@[simp] theorem State.setSt_fb (s : State) (b : Byte) : (s.setSt b).fb = s.fb := rfl
@[simp] theorem State.setSt_keys (s : State) (b : Byte) : (s.setSt b).keys = s.keys := rfl
@[simp] theorem State.setSt_wait (s : State) (b : Byte) : (s.setSt b).wait = s.wait := rfl
@[simp] theorem State.setSt_snap (s : State) (b : Byte) : (s.setSt b).snap = s.snap := rfl
@[simp] theorem State.setSt_phase (s : State) (b : Byte) : (s.setSt b).phase = s.phase := rfl
@[simp] theorem State.setSt_now (s : State) (b : Byte) : (s.setSt b).now = s.now := rfl
@[simp] theorem State.setSt_lastInstr (s : State) (b : Byte) : (s.setSt b).lastInstr = s.lastInstr := rfl
@[simp] theorem State.setSt_lastTimer (s : State) (b : Byte) : (s.setSt b).lastTimer = s.lastTimer := rfl
@[simp] theorem State.setSt_pausedSeen (s : State) (b : Byte) : (s.setSt b).pausedSeen = s.pausedSeen := rfl
@[simp] theorem State.setSt_stopPending (s : State) (b : Byte) : (s.setSt b).stopPending = s.stopPending := rfl
@[simp] theorem State.setSt_runState (s : State) (b : Byte) : (s.setSt b).runState = s.runState := rfl
@[simp] theorem State.setSt_fbOut (s : State) (b : Byte) : (s.setSt b).fbOut = s.fbOut := rfl
@[simp] theorem State.setSt_reply (s : State) (b : Byte) : (s.setSt b).reply = s.reply := rfl
@[simp] theorem State.setSt_hostQueue (s : State) (b : Byte) : (s.setSt b).hostQueue = s.hostQueue := rfl
@[simp] theorem State.setSt_clock (s : State) (b : Byte) : (s.setSt b).clock = s.clock := rfl
@[simp] theorem State.setSt_pace (s : State) (b : Byte) : (s.setSt b).pace = s.pace := rfl
@[simp] theorem State.setSt_turns (s : State) (b : Byte) : (s.setSt b).turns = s.turns := rfl
@[simp] theorem State.setSt_draws (s : State) (b : Byte) : (s.setSt b).draws = s.draws := rfl

/-! ### `State.markEndloop` -/

@[simp] theorem State.markEndloop_cfg (s : State) (c : Bool) : (s.markEndloop c).cfg = s.cfg := rfl
@[simp] theorem State.markEndloop_ms_mem (s : State) (c : Bool) : (s.markEndloop c).ms.mem = s.ms.mem := rfl
@[simp] theorem State.markEndloop_ms_v (s : State) (c : Bool) : (s.markEndloop c).ms.v = s.ms.v := rfl
@[simp] theorem State.markEndloop_ms_i (s : State) (c : Bool) : (s.markEndloop c).ms.i = s.ms.i := rfl
@[simp] theorem State.markEndloop_ms_pc (s : State) (c : Bool) : (s.markEndloop c).ms.pc = s.ms.pc := rfl
@[simp] theorem State.markEndloop_ms_stack (s : State) (c : Bool) : (s.markEndloop c).ms.stack = s.ms.stack := rfl
@[simp] theorem State.markEndloop_ms_sp (s : State) (c : Bool) : (s.markEndloop c).ms.sp = s.ms.sp := rfl
@[simp] theorem State.markEndloop_ms_dt (s : State) (c : Bool) : (s.markEndloop c).ms.dt = s.ms.dt := rfl
@[simp] theorem State.markEndloop_ms_st (s : State) (c : Bool) : (s.markEndloop c).ms.st = s.ms.st := rfl
@[simp] theorem State.markEndloop_ms_endloop (s : State) (c : Bool) : (s.markEndloop c).ms.endloop = (s.ms.endloop || c) := rfl
@[simp] theorem State.markEndloop_fb (s : State) (c : Bool) : (s.markEndloop c).fb = s.fb := rfl
@[simp] theorem State.markEndloop_keys (s : State) (c : Bool) : (s.markEndloop c).keys = s.keys := rfl
@[simp] theorem State.markEndloop_wait (s : State) (c : Bool) : (s.markEndloop c).wait = s.wait := rfl
@[simp] theorem State.markEndloop_snap (s : State) (c : Bool) : (s.markEndloop c).snap = s.snap := rfl
@[simp] theorem State.markEndloop_phase (s : State) (c : Bool) : (s.markEndloop c).phase = s.phase := rfl
@[simp] theorem State.markEndloop_now (s : State) (c : Bool) : (s.markEndloop c).now = s.now := rfl
@[simp] theorem State.markEndloop_lastInstr (s : State) (c : Bool) : (s.markEndloop c).lastInstr = s.lastInstr := rfl
@[simp] theorem State.markEndloop_lastTimer (s : State) (c : Bool) : (s.markEndloop c).lastTimer = s.lastTimer := rfl
@[simp] theorem State.markEndloop_pausedSeen (s : State) (c : Bool) : (s.markEndloop c).pausedSeen = s.pausedSeen := rfl
@[simp] theorem State.markEndloop_stopPending (s : State) (c : Bool) : (s.markEndloop c).stopPending = s.stopPending := rfl
@[simp] theorem State.markEndloop_runState (s : State) (c : Bool) : (s.markEndloop c).runState = s.runState := rfl
@[simp] theorem State.markEndloop_fbOut (s : State) (c : Bool) : (s.markEndloop c).fbOut = s.fbOut := rfl
@[simp] theorem State.markEndloop_reply (s : State) (c : Bool) : (s.markEndloop c).reply = s.reply := rfl
@[simp] theorem State.markEndloop_hostQueue (s : State) (c : Bool) : (s.markEndloop c).hostQueue = s.hostQueue := rfl
@[simp] theorem State.markEndloop_clock (s : State) (c : Bool) : (s.markEndloop c).clock = s.clock := rfl
@[simp] theorem State.markEndloop_pace (s : State) (c : Bool) : (s.markEndloop c).pace = s.pace := rfl
@[simp] theorem State.markEndloop_turns (s : State) (c : Bool) : (s.markEndloop c).turns = s.turns := rfl
@[simp] theorem State.markEndloop_draws (s : State) (c : Bool) : (s.markEndloop c).draws = s.draws := rfl

/-! ### `State.writeBytes` -/

@[simp] theorem State.writeBytes_cfg (s : State) (a : Nat) (bs : List Byte) : (s.writeBytes a bs).cfg = s.cfg := rfl
@[simp] theorem State.writeBytes_ms_mem (s : State) (a : Nat) (bs : List Byte) : (s.writeBytes a bs).ms.mem = Memory.writeBytes s.cfg.font s.ms.mem a bs := rfl
@[simp] theorem State.writeBytes_ms_v (s : State) (a : Nat) (bs : List Byte) : (s.writeBytes a bs).ms.v = s.ms.v := rfl
@[simp] theorem State.writeBytes_ms_i (s : State) (a : Nat) (bs : List Byte) : (s.writeBytes a bs).ms.i = s.ms.i := rfl
@[simp] theorem State.writeBytes_ms_pc (s : State) (a : Nat) (bs : List Byte) : (s.writeBytes a bs).ms.pc = s.ms.pc := rfl
@[simp] theorem State.writeBytes_ms_stack (s : State) (a : Nat) (bs : List Byte) : (s.writeBytes a bs).ms.stack = s.ms.stack := rfl
@[simp] theorem State.writeBytes_ms_sp (s : State) (a : Nat) (bs : List Byte) : (s.writeBytes a bs).ms.sp = s.ms.sp := rfl
@[simp] theorem State.writeBytes_ms_dt (s : State) (a : Nat) (bs : List Byte) : (s.writeBytes a bs).ms.dt = s.ms.dt := rfl
@[simp] theorem State.writeBytes_ms_st (s : State) (a : Nat) (bs : List Byte) : (s.writeBytes a bs).ms.st = s.ms.st := rfl
@[simp] theorem State.writeBytes_ms_endloop (s : State) (a : Nat) (bs : List Byte) : (s.writeBytes a bs).ms.endloop = s.ms.endloop := rfl
@[simp] theorem State.writeBytes_fb (s : State) (a : Nat) (bs : List Byte) : (s.writeBytes a bs).fb = s.fb := rfl
@[simp] theorem State.writeBytes_keys (s : State) (a : Nat) (bs : List Byte) : (s.writeBytes a bs).keys = s.keys := rfl
@[simp] theorem State.writeBytes_wait (s : State) (a : Nat) (bs : List Byte) : (s.writeBytes a bs).wait = s.wait := rfl
@[simp] theorem State.writeBytes_snap (s : State) (a : Nat) (bs : List Byte) : (s.writeBytes a bs).snap = s.snap := rfl
@[simp] theorem State.writeBytes_phase (s : State) (a : Nat) (bs : List Byte) : (s.writeBytes a bs).phase = s.phase := rfl
@[simp] theorem State.writeBytes_now (s : State) (a : Nat) (bs : List Byte) : (s.writeBytes a bs).now = s.now := rfl
@[simp] theorem State.writeBytes_lastInstr (s : State) (a : Nat) (bs : List Byte) : (s.writeBytes a bs).lastInstr = s.lastInstr := rfl
@[simp] theorem State.writeBytes_lastTimer (s : State) (a : Nat) (bs : List Byte) : (s.writeBytes a bs).lastTimer = s.lastTimer := rfl
@[simp] theorem State.writeBytes_pausedSeen (s : State) (a : Nat) (bs : List Byte) : (s.writeBytes a bs).pausedSeen = s.pausedSeen := rfl
@[simp] theorem State.writeBytes_stopPending (s : State) (a : Nat) (bs : List Byte) : (s.writeBytes a bs).stopPending = s.stopPending := rfl
@[simp] theorem State.writeBytes_runState (s : State) (a : Nat) (bs : List Byte) : (s.writeBytes a bs).runState = s.runState := rfl
@[simp] theorem State.writeBytes_fbOut (s : State) (a : Nat) (bs : List Byte) : (s.writeBytes a bs).fbOut = s.fbOut := rfl
@[simp] theorem State.writeBytes_reply (s : State) (a : Nat) (bs : List Byte) : (s.writeBytes a bs).reply = s.reply := rfl
@[simp] theorem State.writeBytes_hostQueue (s : State) (a : Nat) (bs : List Byte) : (s.writeBytes a bs).hostQueue = s.hostQueue := rfl
@[simp] theorem State.writeBytes_clock (s : State) (a : Nat) (bs : List Byte) : (s.writeBytes a bs).clock = s.clock := rfl
@[simp] theorem State.writeBytes_pace (s : State) (a : Nat) (bs : List Byte) : (s.writeBytes a bs).pace = s.pace := rfl
@[simp] theorem State.writeBytes_turns (s : State) (a : Nat) (bs : List Byte) : (s.writeBytes a bs).turns = s.turns := rfl
@[simp] theorem State.writeBytes_draws (s : State) (a : Nat) (bs : List Byte) : (s.writeBytes a bs).draws = s.draws := rfl

/-! ### `State.startWait` -/

@[simp] theorem State.startWait_cfg (s : State) (x : Reg) : (s.startWait x).cfg = s.cfg := rfl
@[simp] theorem State.startWait_ms (s : State) (x : Reg) : (s.startWait x).ms = s.ms := rfl
@[simp] theorem State.startWait_fb (s : State) (x : Reg) : (s.startWait x).fb = s.fb := rfl
@[simp] theorem State.startWait_keys (s : State) (x : Reg) : (s.startWait x).keys = s.keys := rfl
@[simp] theorem State.startWait_wait (s : State) (x : Reg) : (s.startWait x).wait = .waiting x := rfl
@[simp] theorem State.startWait_snap (s : State) (x : Reg) : (s.startWait x).snap = s.snap := rfl
@[simp] theorem State.startWait_phase (s : State) (x : Reg) : (s.startWait x).phase = s.phase := rfl
@[simp] theorem State.startWait_now (s : State) (x : Reg) : (s.startWait x).now = s.now := rfl
@[simp] theorem State.startWait_lastInstr (s : State) (x : Reg) : (s.startWait x).lastInstr = s.lastInstr := rfl
@[simp] theorem State.startWait_lastTimer (s : State) (x : Reg) : (s.startWait x).lastTimer = s.lastTimer := rfl
@[simp] theorem State.startWait_pausedSeen (s : State) (x : Reg) : (s.startWait x).pausedSeen = s.pausedSeen := rfl
@[simp] theorem State.startWait_stopPending (s : State) (x : Reg) : (s.startWait x).stopPending = s.stopPending := rfl
@[simp] theorem State.startWait_runState (s : State) (x : Reg) : (s.startWait x).runState = s.runState := rfl
@[simp] theorem State.startWait_fbOut (s : State) (x : Reg) : (s.startWait x).fbOut = s.fbOut := rfl
@[simp] theorem State.startWait_reply (s : State) (x : Reg) : (s.startWait x).reply = s.reply := rfl
@[simp] theorem State.startWait_hostQueue (s : State) (x : Reg) : (s.startWait x).hostQueue = s.hostQueue := rfl
@[simp] theorem State.startWait_clock (s : State) (x : Reg) : (s.startWait x).clock = s.clock := rfl
@[simp] theorem State.startWait_pace (s : State) (x : Reg) : (s.startWait x).pace = s.pace := rfl
@[simp] theorem State.startWait_turns (s : State) (x : Reg) : (s.startWait x).turns = s.turns := rfl
@[simp] theorem State.startWait_draws (s : State) (x : Reg) : (s.startWait x).draws = s.draws := rfl

/-! ### `State.setFb` -/

@[simp] theorem State.setFb_cfg (s : State) (g : Framebuffer) : (s.setFb g).cfg = s.cfg := rfl
@[simp] theorem State.setFb_ms (s : State) (g : Framebuffer) : (s.setFb g).ms = s.ms := rfl
@[simp] theorem State.setFb_fb (s : State) (g : Framebuffer) : (s.setFb g).fb = g := rfl
@[simp] theorem State.setFb_keys (s : State) (g : Framebuffer) : (s.setFb g).keys = s.keys := rfl
@[simp] theorem State.setFb_wait (s : State) (g : Framebuffer) : (s.setFb g).wait = s.wait := rfl
@[simp] theorem State.setFb_snap (s : State) (g : Framebuffer) : (s.setFb g).snap = s.snap := rfl
@[simp] theorem State.setFb_phase (s : State) (g : Framebuffer) : (s.setFb g).phase = s.phase := rfl
@[simp] theorem State.setFb_now (s : State) (g : Framebuffer) : (s.setFb g).now = s.now := rfl
@[simp] theorem State.setFb_lastInstr (s : State) (g : Framebuffer) : (s.setFb g).lastInstr = s.lastInstr := rfl
@[simp] theorem State.setFb_lastTimer (s : State) (g : Framebuffer) : (s.setFb g).lastTimer = s.lastTimer := rfl
@[simp] theorem State.setFb_pausedSeen (s : State) (g : Framebuffer) : (s.setFb g).pausedSeen = s.pausedSeen := rfl
@[simp] theorem State.setFb_stopPending (s : State) (g : Framebuffer) : (s.setFb g).stopPending = s.stopPending := rfl
@[simp] theorem State.setFb_runState (s : State) (g : Framebuffer) : (s.setFb g).runState = s.runState := rfl
@[simp] theorem State.setFb_fbOut (s : State) (g : Framebuffer) : (s.setFb g).fbOut = s.fbOut := rfl
@[simp] theorem State.setFb_reply (s : State) (g : Framebuffer) : (s.setFb g).reply = s.reply := rfl
@[simp] theorem State.setFb_hostQueue (s : State) (g : Framebuffer) : (s.setFb g).hostQueue = s.hostQueue := rfl
@[simp] theorem State.setFb_clock (s : State) (g : Framebuffer) : (s.setFb g).clock = s.clock := rfl
@[simp] theorem State.setFb_pace (s : State) (g : Framebuffer) : (s.setFb g).pace = s.pace := rfl
@[simp] theorem State.setFb_turns (s : State) (g : Framebuffer) : (s.setFb g).turns = s.turns := rfl
@[simp] theorem State.setFb_draws (s : State) (g : Framebuffer) : (s.setFb g).draws = s.draws := rfl

/-! ### `State.drawTaken` -/

@[simp] theorem State.drawTaken_cfg (s : State) : (s.drawTaken).cfg = s.cfg := rfl
@[simp] theorem State.drawTaken_ms (s : State) : (s.drawTaken).ms = s.ms := rfl
@[simp] theorem State.drawTaken_fb (s : State) : (s.drawTaken).fb = s.fb := rfl
@[simp] theorem State.drawTaken_keys (s : State) : (s.drawTaken).keys = s.keys := rfl
@[simp] theorem State.drawTaken_wait (s : State) : (s.drawTaken).wait = s.wait := rfl
@[simp] theorem State.drawTaken_snap (s : State) : (s.drawTaken).snap = s.snap := rfl
@[simp] theorem State.drawTaken_phase (s : State) : (s.drawTaken).phase = s.phase := rfl
@[simp] theorem State.drawTaken_now (s : State) : (s.drawTaken).now = s.now := rfl
@[simp] theorem State.drawTaken_lastInstr (s : State) : (s.drawTaken).lastInstr = s.lastInstr := rfl
@[simp] theorem State.drawTaken_lastTimer (s : State) : (s.drawTaken).lastTimer = s.lastTimer := rfl
@[simp] theorem State.drawTaken_pausedSeen (s : State) : (s.drawTaken).pausedSeen = s.pausedSeen := rfl
@[simp] theorem State.drawTaken_stopPending (s : State) : (s.drawTaken).stopPending = s.stopPending := rfl
@[simp] theorem State.drawTaken_runState (s : State) : (s.drawTaken).runState = s.runState := rfl
@[simp] theorem State.drawTaken_fbOut (s : State) : (s.drawTaken).fbOut = s.fbOut := rfl
@[simp] theorem State.drawTaken_reply (s : State) : (s.drawTaken).reply = s.reply := rfl
@[simp] theorem State.drawTaken_hostQueue (s : State) : (s.drawTaken).hostQueue = s.hostQueue := rfl
@[simp] theorem State.drawTaken_clock (s : State) : (s.drawTaken).clock = s.clock := rfl
@[simp] theorem State.drawTaken_pace (s : State) : (s.drawTaken).pace = s.pace := rfl
@[simp] theorem State.drawTaken_turns (s : State) : (s.drawTaken).turns = s.turns := rfl
@[simp] theorem State.drawTaken_draws (s : State) : (s.drawTaken).draws = s.draws + 1 := rfl

/-! ### `State.raise` -/

@[simp] theorem State.raise_cfg (s : State) (c : FaultCode) (o : Option Word) (i : FaultInfo) : (s.raise c o i).cfg = s.cfg := rfl
@[simp] theorem State.raise_ms (s : State) (c : FaultCode) (o : Option Word) (i : FaultInfo) : (s.raise c o i).ms = s.ms := rfl
@[simp] theorem State.raise_fb (s : State) (c : FaultCode) (o : Option Word) (i : FaultInfo) : (s.raise c o i).fb = s.fb := rfl
@[simp] theorem State.raise_keys (s : State) (c : FaultCode) (o : Option Word) (i : FaultInfo) : (s.raise c o i).keys = s.keys := rfl
@[simp] theorem State.raise_wait (s : State) (c : FaultCode) (o : Option Word) (i : FaultInfo) : (s.raise c o i).wait = s.wait := rfl
@[simp] theorem State.raise_snap (s : State) (c : FaultCode) (o : Option Word) (i : FaultInfo) : (s.raise c o i).snap = s.snap := rfl
@[simp] theorem State.raise_phase (s : State) (c : FaultCode) (o : Option Word) (i : FaultInfo) : (s.raise c o i).phase = s.phase := rfl
@[simp] theorem State.raise_now (s : State) (c : FaultCode) (o : Option Word) (i : FaultInfo) : (s.raise c o i).now = s.now := rfl
@[simp] theorem State.raise_lastInstr (s : State) (c : FaultCode) (o : Option Word) (i : FaultInfo) : (s.raise c o i).lastInstr = s.lastInstr := rfl
@[simp] theorem State.raise_lastTimer (s : State) (c : FaultCode) (o : Option Word) (i : FaultInfo) : (s.raise c o i).lastTimer = s.lastTimer := rfl
@[simp] theorem State.raise_pausedSeen (s : State) (c : FaultCode) (o : Option Word) (i : FaultInfo) : (s.raise c o i).pausedSeen = s.pausedSeen := rfl
@[simp] theorem State.raise_stopPending (s : State) (c : FaultCode) (o : Option Word) (i : FaultInfo) : (s.raise c o i).stopPending = s.stopPending := rfl
@[simp] theorem State.raise_runState (s : State) (c : FaultCode) (o : Option Word) (i : FaultInfo) : (s.raise c o i).runState = .faulted { code := c, pc := s.ms.pc, opcode := o, info := i } := rfl
@[simp] theorem State.raise_fbOut (s : State) (c : FaultCode) (o : Option Word) (i : FaultInfo) : (s.raise c o i).fbOut = s.fbOut := rfl
@[simp] theorem State.raise_reply (s : State) (c : FaultCode) (o : Option Word) (i : FaultInfo) : (s.raise c o i).reply = s.reply := rfl
@[simp] theorem State.raise_hostQueue (s : State) (c : FaultCode) (o : Option Word) (i : FaultInfo) : (s.raise c o i).hostQueue = s.hostQueue := rfl
@[simp] theorem State.raise_clock (s : State) (c : FaultCode) (o : Option Word) (i : FaultInfo) : (s.raise c o i).clock = s.clock := rfl
@[simp] theorem State.raise_pace (s : State) (c : FaultCode) (o : Option Word) (i : FaultInfo) : (s.raise c o i).pace = s.pace := rfl
@[simp] theorem State.raise_turns (s : State) (c : FaultCode) (o : Option Word) (i : FaultInfo) : (s.raise c o i).turns = s.turns := rfl
@[simp] theorem State.raise_draws (s : State) (c : FaultCode) (o : Option Word) (i : FaultInfo) : (s.raise c o i).draws = s.draws := rfl

/-! ### `State.push` -/

@[simp] theorem State.push_cfg (s : State) (w : Word) : (s.push w).cfg = s.cfg := by simp only [State.push]; split <;> rfl
@[simp] theorem State.push_ms_mem (s : State) (w : Word) : (s.push w).ms.mem = s.ms.mem := by simp only [State.push]; split <;> rfl
@[simp] theorem State.push_ms_v (s : State) (w : Word) : (s.push w).ms.v = s.ms.v := by simp only [State.push]; split <;> rfl
@[simp] theorem State.push_ms_i (s : State) (w : Word) : (s.push w).ms.i = s.ms.i := by simp only [State.push]; split <;> rfl
@[simp] theorem State.push_ms_pc (s : State) (w : Word) : (s.push w).ms.pc = s.ms.pc := by simp only [State.push]; split <;> rfl
@[simp] theorem State.push_ms_dt (s : State) (w : Word) : (s.push w).ms.dt = s.ms.dt := by simp only [State.push]; split <;> rfl
@[simp] theorem State.push_ms_st (s : State) (w : Word) : (s.push w).ms.st = s.ms.st := by simp only [State.push]; split <;> rfl
@[simp] theorem State.push_ms_endloop (s : State) (w : Word) : (s.push w).ms.endloop = s.ms.endloop := by simp only [State.push]; split <;> rfl
@[simp] theorem State.push_fb (s : State) (w : Word) : (s.push w).fb = s.fb := by simp only [State.push]; split <;> rfl
@[simp] theorem State.push_keys (s : State) (w : Word) : (s.push w).keys = s.keys := by simp only [State.push]; split <;> rfl
@[simp] theorem State.push_wait (s : State) (w : Word) : (s.push w).wait = s.wait := by simp only [State.push]; split <;> rfl
@[simp] theorem State.push_snap (s : State) (w : Word) : (s.push w).snap = s.snap := by simp only [State.push]; split <;> rfl
@[simp] theorem State.push_phase (s : State) (w : Word) : (s.push w).phase = s.phase := by simp only [State.push]; split <;> rfl
@[simp] theorem State.push_now (s : State) (w : Word) : (s.push w).now = s.now := by simp only [State.push]; split <;> rfl
@[simp] theorem State.push_lastInstr (s : State) (w : Word) : (s.push w).lastInstr = s.lastInstr := by simp only [State.push]; split <;> rfl
@[simp] theorem State.push_lastTimer (s : State) (w : Word) : (s.push w).lastTimer = s.lastTimer := by simp only [State.push]; split <;> rfl
@[simp] theorem State.push_pausedSeen (s : State) (w : Word) : (s.push w).pausedSeen = s.pausedSeen := by simp only [State.push]; split <;> rfl
@[simp] theorem State.push_stopPending (s : State) (w : Word) : (s.push w).stopPending = s.stopPending := by simp only [State.push]; split <;> rfl
@[simp] theorem State.push_runState (s : State) (w : Word) : (s.push w).runState = s.runState := by simp only [State.push]; split <;> rfl
@[simp] theorem State.push_fbOut (s : State) (w : Word) : (s.push w).fbOut = s.fbOut := by simp only [State.push]; split <;> rfl
@[simp] theorem State.push_reply (s : State) (w : Word) : (s.push w).reply = s.reply := by simp only [State.push]; split <;> rfl
@[simp] theorem State.push_hostQueue (s : State) (w : Word) : (s.push w).hostQueue = s.hostQueue := by simp only [State.push]; split <;> rfl
@[simp] theorem State.push_clock (s : State) (w : Word) : (s.push w).clock = s.clock := by simp only [State.push]; split <;> rfl
@[simp] theorem State.push_pace (s : State) (w : Word) : (s.push w).pace = s.pace := by simp only [State.push]; split <;> rfl
@[simp] theorem State.push_turns (s : State) (w : Word) : (s.push w).turns = s.turns := by simp only [State.push]; split <;> rfl
@[simp] theorem State.push_draws (s : State) (w : Word) : (s.push w).draws = s.draws := by simp only [State.push]; split <;> rfl

/-! ### `State.popPc` -/

@[simp] theorem State.popPc_cfg (s : State) : (s.popPc).cfg = s.cfg := by simp only [State.popPc]; split <;> rfl
@[simp] theorem State.popPc_ms_mem (s : State) : (s.popPc).ms.mem = s.ms.mem := by simp only [State.popPc]; split <;> rfl
@[simp] theorem State.popPc_ms_v (s : State) : (s.popPc).ms.v = s.ms.v := by simp only [State.popPc]; split <;> rfl
@[simp] theorem State.popPc_ms_i (s : State) : (s.popPc).ms.i = s.ms.i := by simp only [State.popPc]; split <;> rfl
@[simp] theorem State.popPc_ms_stack (s : State) : (s.popPc).ms.stack = s.ms.stack := by simp only [State.popPc]; split <;> rfl
@[simp] theorem State.popPc_ms_dt (s : State) : (s.popPc).ms.dt = s.ms.dt := by simp only [State.popPc]; split <;> rfl
@[simp] theorem State.popPc_ms_st (s : State) : (s.popPc).ms.st = s.ms.st := by simp only [State.popPc]; split <;> rfl
@[simp] theorem State.popPc_ms_endloop (s : State) : (s.popPc).ms.endloop = s.ms.endloop := by simp only [State.popPc]; split <;> rfl
@[simp] theorem State.popPc_fb (s : State) : (s.popPc).fb = s.fb := by simp only [State.popPc]; split <;> rfl
@[simp] theorem State.popPc_keys (s : State) : (s.popPc).keys = s.keys := by simp only [State.popPc]; split <;> rfl
@[simp] theorem State.popPc_wait (s : State) : (s.popPc).wait = s.wait := by simp only [State.popPc]; split <;> rfl
@[simp] theorem State.popPc_snap (s : State) : (s.popPc).snap = s.snap := by simp only [State.popPc]; split <;> rfl
@[simp] theorem State.popPc_phase (s : State) : (s.popPc).phase = s.phase := by simp only [State.popPc]; split <;> rfl
@[simp] theorem State.popPc_now (s : State) : (s.popPc).now = s.now := by simp only [State.popPc]; split <;> rfl
@[simp] theorem State.popPc_lastInstr (s : State) : (s.popPc).lastInstr = s.lastInstr := by simp only [State.popPc]; split <;> rfl
@[simp] theorem State.popPc_lastTimer (s : State) : (s.popPc).lastTimer = s.lastTimer := by simp only [State.popPc]; split <;> rfl
@[simp] theorem State.popPc_pausedSeen (s : State) : (s.popPc).pausedSeen = s.pausedSeen := by simp only [State.popPc]; split <;> rfl
@[simp] theorem State.popPc_stopPending (s : State) : (s.popPc).stopPending = s.stopPending := by simp only [State.popPc]; split <;> rfl
@[simp] theorem State.popPc_runState (s : State) : (s.popPc).runState = s.runState := by simp only [State.popPc]; split <;> rfl
@[simp] theorem State.popPc_fbOut (s : State) : (s.popPc).fbOut = s.fbOut := by simp only [State.popPc]; split <;> rfl
@[simp] theorem State.popPc_reply (s : State) : (s.popPc).reply = s.reply := by simp only [State.popPc]; split <;> rfl
@[simp] theorem State.popPc_hostQueue (s : State) : (s.popPc).hostQueue = s.hostQueue := by simp only [State.popPc]; split <;> rfl
@[simp] theorem State.popPc_clock (s : State) : (s.popPc).clock = s.clock := by simp only [State.popPc]; split <;> rfl
@[simp] theorem State.popPc_pace (s : State) : (s.popPc).pace = s.pace := by simp only [State.popPc]; split <;> rfl
@[simp] theorem State.popPc_turns (s : State) : (s.popPc).turns = s.turns := by simp only [State.popPc]; split <;> rfl
@[simp] theorem State.popPc_draws (s : State) : (s.popPc).draws = s.draws := by simp only [State.popPc]; split <;> rfl

end Sys2Proof.Machine
end

