-- ==== Sys2Proof/Laws/Ops.lean ====
section
/-! SUPPORT. What each shared operation does, said once through the reads that statements are written in. -/

namespace Sys2Proof.Machine

/-! ### Registers -/

@[simp] theorem State.getV_setV (s : State) (x r : Reg) (b : Byte) :
    (s.setV x b).getV r = if r = x then b else s.getV r := by
  simp only [State.getV, State.setV_ms_v, Vector.get_eq_getElem, Vector.getElem_set, eq_comm (a := x.val), Fin.ext_iff]

theorem loadBlock_get (v : Vector Byte 16) (x r : Reg) (bs : List Byte) :
    (loadBlock v x bs).get r = if r.val ≤ x.val then bs.getD r.val 0 else v.get r := by
  simp [loadBlock, Vector.get_eq_getElem]

@[simp] theorem State.getV_loadV (s : State) (x r : Reg) (bs : List Byte) :
    (s.loadV x bs).getV r = if r.val ≤ x.val then bs.getD r.val 0 else s.getV r := by
  simp only [State.getV, State.loadV_ms_v, loadBlock_get]

@[simp] theorem State.getV_jump (s : State) (w : Word) (r : Reg) : (s.jump w).getV r = s.getV r := rfl
@[simp] theorem State.getV_advance (s : State) (r : Reg) : s.advance.getV r = s.getV r := rfl
@[simp] theorem State.getV_setI (s : State) (w : Word) (r : Reg) : (s.setI w).getV r = s.getV r := rfl
@[simp] theorem State.getV_setDt (s : State) (b : Byte) (r : Reg) : (s.setDt b).getV r = s.getV r := rfl
@[simp] theorem State.getV_setSt (s : State) (b : Byte) (r : Reg) : (s.setSt b).getV r = s.getV r := rfl
@[simp] theorem State.getV_markEndloop (s : State) (c : Bool) (r : Reg) : (s.markEndloop c).getV r = s.getV r := rfl
@[simp] theorem State.getV_startWait (s : State) (x r : Reg) : (s.startWait x).getV r = s.getV r := rfl
@[simp] theorem State.getV_writeBytes (s : State) (a : Nat) (bs : List Byte) (r : Reg) :
    (s.writeBytes a bs).getV r = s.getV r := rfl
@[simp] theorem State.getV_setFb (s : State) (g : Framebuffer) (r : Reg) : (s.setFb g).getV r = s.getV r := rfl
@[simp] theorem State.getV_drawTaken (s : State) (r : Reg) : s.drawTaken.getV r = s.getV r := rfl
@[simp] theorem State.getV_raise (s : State) (c : FaultCode) (o : Option Word) (i : FaultInfo) (r : Reg) :
    (s.raise c o i).getV r = s.getV r := rfl
@[simp] theorem State.getV_push (s : State) (w : Word) (r : Reg) : (s.push w).getV r = s.getV r := by
  simp only [State.getV, State.push_ms_v]
@[simp] theorem State.getV_popPc (s : State) (r : Reg) : s.popPc.getV r = s.getV r := by
  simp only [State.getV, State.popPc_ms_v]

/-- The bitwise rows' writes, VF last: what each register holds after them. -/
theorem State.getV_writeThenClearVf (s : State) (x r : Reg) (b : Byte) :
    (s.writeThenClearVf x b).getV r = if r = vf then 0 else if r = x then b else s.getV r := by
  simp only [State.writeThenClearVf, State.getV_setV]

/-- The flag rows' writes, VF first: what each register holds after them. -/
theorem State.getV_flagThenWrite (s : State) (flag : Byte) (x r : Reg) (result : State → Byte) :
    (s.flagThenWrite flag x result).getV r =
      if r = x then result (s.setV vf flag) else if r = vf then flag else s.getV r := by
  simp only [State.flagThenWrite, State.getV_setV]

theorem State.writeThenClearVf_frame (s : State) (x : Reg) (b : Byte) :
    s.writeThenClearVf x b = { s with ms := { s.ms with v := (s.writeThenClearVf x b).ms.v } } := rfl

theorem State.flagThenWrite_frame (s : State) (flag : Byte) (x : Reg) (result : State → Byte) :
    s.flagThenWrite flag x result = { s with ms := { s.ms with v := (s.flagThenWrite flag x result).ms.v } } := rfl

/-! ### Memory -/

@[simp] theorem State.readByte_jump (s : State) (w : Word) (a : Nat) : (s.jump w).readByte a = s.readByte a := rfl
@[simp] theorem State.readByte_advance (s : State) (a : Nat) : s.advance.readByte a = s.readByte a := rfl
@[simp] theorem State.readByte_setV (s : State) (x : Reg) (b : Byte) (a : Nat) :
    (s.setV x b).readByte a = s.readByte a := rfl
@[simp] theorem State.readByte_loadV (s : State) (x : Reg) (bs : List Byte) (a : Nat) :
    (s.loadV x bs).readByte a = s.readByte a := by simp only [State.readByte, State.loadV_cfg, State.loadV_ms_mem]
@[simp] theorem State.readByte_setI (s : State) (w : Word) (a : Nat) : (s.setI w).readByte a = s.readByte a := rfl
@[simp] theorem State.readByte_setDt (s : State) (b : Byte) (a : Nat) : (s.setDt b).readByte a = s.readByte a := rfl
@[simp] theorem State.readByte_setSt (s : State) (b : Byte) (a : Nat) : (s.setSt b).readByte a = s.readByte a := rfl
@[simp] theorem State.readByte_markEndloop (s : State) (c : Bool) (a : Nat) :
    (s.markEndloop c).readByte a = s.readByte a := rfl
@[simp] theorem State.readByte_startWait (s : State) (x : Reg) (a : Nat) :
    (s.startWait x).readByte a = s.readByte a := rfl
@[simp] theorem State.readByte_setFb (s : State) (g : Framebuffer) (a : Nat) :
    (s.setFb g).readByte a = s.readByte a := rfl
@[simp] theorem State.readByte_drawTaken (s : State) (a : Nat) : s.drawTaken.readByte a = s.readByte a := rfl
@[simp] theorem State.readByte_raise (s : State) (c : FaultCode) (o : Option Word) (i : FaultInfo) (a : Nat) :
    (s.raise c o i).readByte a = s.readByte a := rfl
@[simp] theorem State.readByte_push (s : State) (w : Word) (a : Nat) : (s.push w).readByte a = s.readByte a := by
  simp only [State.readByte, State.push_ms_mem, State.push_cfg]
@[simp] theorem State.readByte_popPc (s : State) (a : Nat) : s.popPc.readByte a = s.readByte a := by
  simp only [State.readByte, State.popPc_ms_mem, State.popPc_cfg]

theorem State.readByte_writeBytes_outside (s : State) (a a' : Nat) (bs : List Byte)
    (h : a' < a ∨ a + bs.length ≤ a') : (s.writeBytes a bs).readByte a' = s.readByte a' :=
  Memory.read_writeBytes_outside _ _ _ _ _ h

theorem State.readByte_writeBytes_inside (s : State) (a k : Nat) (bs : List Byte) (hs : s.ms.mem.sorted)
    (h : k < bs.length) : (s.writeBytes a bs).readByte (a + k) = bs[k] :=
  Memory.read_writeBytes_inside _ _ _ _ _ hs h

/-! ### Operands -/

@[simp] theorem State.readBytes_advance (s : State) (a n : Nat) : s.advance.readBytes a n = s.readBytes a n := rfl
@[simp] theorem State.addrI_advance (s : State) : s.advance.addrI = s.addrI := rfl

@[simp] theorem State.length_readBytes (s : State) (a n : Nat) : (s.readBytes a n).length = n := by
  simp [State.readBytes]

@[simp] theorem State.getElem_readBytes (s : State) (a n k : Nat) (h : k < (s.readBytes a n).length) :
    (s.readBytes a n)[k] = s.readByte (a + k) := by
  simp [State.readBytes]

@[simp] theorem State.length_regBlock (s : State) (x : Reg) : (s.regBlock x).length = x.val + 1 := by
  simp [State.regBlock, blockLen]

theorem State.getElem_regBlock (s : State) (x k : Reg) (h : k.val < (s.regBlock x).length) :
    (s.regBlock x)[k.val] = s.getV k := by
  simp [State.regBlock, State.getV, Vector.get_eq_getElem]

/-- When an access at `I` leaves memory. -/
theorem State.blockOutside_iff (s : State) (n : Nat) :
    s.blockOutside n = true ↔ 0 < n ∧ 0xFFF < s.ms.i.toNat + n - 1 := by
  rw [State.blockOutside, decide_eq_true_iff, State.addrI]

/-- When `V[x]` names no key. -/
theorem State.keyOutside_iff (s : State) (x : Reg) : s.keyOutside x = true ↔ 0xF < (s.getV x).toNat := by
  rw [State.keyOutside, decide_eq_true_iff]

/-! ### Program counter -/

/-- A skip moves `PC` and nothing else. -/
@[simp] theorem State.skipIf_eq (s : State) (c : Bool) : s.skipIf c = s.jump (s.ms.pc + if c then 2 else 0) := by
  cases c <;> simp [State.skipIf, State.advance, State.jump]

/-! ### Call stack -/

/-- A push below the full mark: the slot at `SP` takes the word, `SP` goes up by one, nothing else changes. -/
theorem State.push_spec (s : State) (w : Word) (h : s.ms.sp.val < 16) :
    (s.push w).ms.sp.val = s.ms.sp.val + 1 ∧
    (∀ k, (s.push w).slot k = if k.val = s.ms.sp.val then w else s.slot k) ∧
    s.push w = { s with ms := { s.ms with stack := (s.push w).ms.stack, sp := (s.push w).ms.sp } } := by
  simp only [State.push, dif_pos h, State.slot, Vector.get_eq_getElem, Vector.getElem_set, eq_comm (a := s.ms.sp.val),
    and_true, implies_true]

/-- A pop above the empty mark: `PC` takes the slot below `SP`, which goes down to it, and nothing else changes. -/
theorem State.popPc_spec (s : State) (h : 0 < s.ms.sp.val) :
    s.popPc.ms.sp.val = s.ms.sp.val - 1 ∧
    (∀ k : Fin 16, k.val = s.ms.sp.val - 1 → s.popPc.ms.pc = s.slot k) ∧
    s.popPc = { s with ms := { s.ms with sp := s.popPc.ms.sp, pc := s.popPc.ms.pc } } := by
  simp only [State.popPc, dif_pos h, true_and, and_true]
  intro k hk
  have : (⟨s.ms.sp.val - 1, by omega⟩ : Fin 16) = k := Fin.ext hk.symm
  simp only [this, State.slot]

end Sys2Proof.Machine
end

