-- ==== Sys2Proof/Laws/Loop.lean ====
section
/-! SUPPORT. What the loop's shared operations do, and the cases of one step. -/

namespace Sys2Proof.Machine

/-! ### Keys -/

@[simp] theorem State.get_setKey (s : State) (k j : Key) (b : Bool) :
    (s.setKey k b).keys.get j = if j = k then b else s.keys.get j := by
  simp only [State.setKey, Vector.get_eq_getElem, Vector.getElem_set, Fin.ext_iff, eq_comm (a := k.val)]

/-- What a key event or a poll may change: the latch, the wait, the `V` registers and `run_state`. -/
def State.withLatch (s t : State) : State :=
  { s with keys := t.keys, wait := t.wait, runState := t.runState, ms := { s.ms with v := t.ms.v } }

theorem State.resolveWait_idle (s : State) (k : Key) (h : s.wait = .idle) : s.resolveWait k = s := by
  simp only [State.resolveWait, h]

theorem State.resolveWait_waiting (s : State) (k : Key) (r : Reg) (h : s.wait = .waiting r) :
    s.resolveWait k = { s.setV r (keyByte k) with wait := .idle } := by
  simp only [State.resolveWait, h]

/-- The machine's key map holds, for each logical key, the number of the host's code for it. -/
@[simp] theorem heldKeymap_get {K : Type} [DecidableEq K] (keymap : Vector K 16) (k : Key) :
    (heldKeymap keymap).get k = heldCode keymap (keymap.get k) := by
  fin_cases k <;> rfl

/-- A key press changes the latch, the wait and the awaited register only. -/
theorem State.keyDown_frame (s : State) (h : HostKey) :
    s.keyDown h = s.withLatch (s.keyDown h) ∧ (s.keyDown h).runState = s.runState := by
  simp only [State.keyDown]
  split
  · exact ⟨rfl, rfl⟩
  · simp only [State.resolveWait, State.setKey]
    split <;> exact ⟨rfl, rfl⟩

/-- A key release changes the latch only. -/
theorem State.keyUp_frame (s : State) (h : HostKey) : s.keyUp h = { s with keys := (s.keyUp h).keys } := by
  simp only [State.keyUp]
  split <;> rfl

/-- A poll changes the latch, the wait, the awaited registers and `run_state` only. -/
theorem State.pollEvents_frame (s : State) (es : List HostEvent) :
    s.pollEvents es = s.withLatch (s.pollEvents es) := by
  induction es generalizing s with
  | nil => rfl
  | cons e es ih =>
    cases e with
    | keyDown h => rw [State.pollEvents, ih, (s.keyDown_frame h).1]; rfl
    | keyUp h => rw [State.pollEvents, ih, s.keyUp_frame h]; rfl
    | quit => rfl

/-- How a poll leaves the wait: as it was, or resolved by one of its key presses, whose key is in the register. -/
theorem State.pollEvents_wait (s : State) (es : List HostEvent) :
    ((s.pollEvents es).wait = s.wait ∧ (s.pollEvents es).ms.v = s.ms.v) ∨
    ∃ r h k, s.wait = .waiting r ∧ (s.pollEvents es).wait = .idle ∧ .keyDown h ∈ es ∧ keyOf s.cfg.keymap h = some k ∧
      (s.pollEvents es).ms.v = s.ms.v.set r.val (keyByte k) := by
  induction es generalizing s with
  | nil => exact .inl ⟨rfl, rfl⟩
  | cons e es ih =>
    cases e with
    | keyDown h =>
      have hc : (s.keyDown h).cfg = s.cfg := by rw [(s.keyDown_frame h).1]; rfl
      have hk : ((s.keyDown h).wait = s.wait ∧ (s.keyDown h).ms.v = s.ms.v) ∨
          ∃ r k, s.wait = .waiting r ∧ (s.keyDown h).wait = .idle ∧ keyOf s.cfg.keymap h = some k ∧
            (s.keyDown h).ms.v = s.ms.v.set r.val (keyByte k) := by
        simp only [State.keyDown]
        split
        · exact .inl ⟨rfl, rfl⟩
        · next k hk =>
          cases hw : s.wait with
          | idle => left; rw [State.resolveWait_idle (s.setKey k true) k hw]; exact ⟨hw, rfl⟩
          | waiting r =>
            right
            rw [State.resolveWait_waiting (s.setKey k true) k r hw]
            exact ⟨r, k, rfl, rfl, hk, rfl⟩
      simp only [State.pollEvents]
      rcases hk with ⟨h1, h2⟩ | ⟨r, k, h1, h2, h3, h4⟩
      · rcases ih (s.keyDown h) with ⟨g1, g2⟩ | ⟨r, h', k, g1, g2, g3, g4, g5⟩
        · exact .inl ⟨g1.trans h1, g2.trans h2⟩
        · exact .inr ⟨r, h', k, h1 ▸ g1, g2, List.mem_cons_of_mem _ g3, hc ▸ g4, by rw [g5, h2]⟩
      · rcases ih (s.keyDown h) with ⟨g1, g2⟩ | ⟨r', h', k', g1, -⟩
        · exact .inr ⟨r, h, k, h1, g1.trans h2, List.mem_cons_self, h3, g2.trans h4⟩
        · rw [h2] at g1; cases g1
    | keyUp h =>
      have hu := s.keyUp_frame h
      simp only [State.pollEvents]
      have h1 : (s.keyUp h).wait = s.wait := by rw [hu]
      have h2 : (s.keyUp h).ms = s.ms := by rw [hu]
      have h3 : (s.keyUp h).cfg = s.cfg := by rw [hu]
      rcases ih (s.keyUp h) with ⟨g1, g2⟩ | ⟨r, h', k, g1, g2, g3, g4, g5⟩
      · exact .inl ⟨g1.trans h1, by rw [g2, h2]⟩
      · exact .inr ⟨r, h', k, h1 ▸ g1, g2, List.mem_cons_of_mem _ g3, h3 ▸ g4, by rw [g5, h2]⟩
    | quit => exact .inl ⟨rfl, rfl⟩

/-- How a poll leaves `run_state`: stopped by the host exactly when a quit is among the events. -/
theorem State.pollEvents_runState (s : State) (es : List HostEvent) :
    (s.pollEvents es).runState = if .quit ∈ es then .stopped .hostQuit else s.runState := by
  induction es generalizing s with
  | nil => rfl
  | cons e es ih =>
    cases e with
    | keyDown h => simp [State.pollEvents, ih, (s.keyDown_frame h).2]
    | keyUp h =>
      have hr : (s.keyUp h).runState = s.runState := by rw [s.keyUp_frame h]
      simp [State.pollEvents, ih, hr]
    | quit => simp [State.pollEvents]

/-! ### Scheduler -/

theorem countDown_toNat (b : Byte) : (countDown b).toNat = b.toNat - 1 := by
  have := b.isLt
  simp only [countDown]
  split
  · simp only [BitVec.toNat_sub]
    simp
    omega
  · omega

/-- The timer decrement changes the two timers only. -/
theorem State.tickTimers_frame (s : State) :
    s.tickTimers = { s with ms := { s.ms with dt := s.tickTimers.ms.dt, st := s.tickTimers.ms.st } } := by
  simp only [State.tickTimers]
  split <;> rfl

/-- The state whose queued events S4 handles: time taken, timers decremented, framebuffer handed off, queue emptied. -/
def State.beforePoll (s : State) : State :=
  { { s with lastTimer := s.now }.tickTimers.handOff with hostQueue := [] }

theorem State.beforePoll_frame (s : State) :
    s.beforePoll = { s with
      lastTimer := s.now, fbOut := some s.fb, hostQueue := [],
      ms := { s.ms with dt := s.beforePoll.ms.dt, st := s.beforePoll.ms.st } } := by
  have h := { s with lastTimer := s.now }.tickTimers_frame
  simp only [State.beforePoll, State.handOff]
  rw [h]

/-- S4: nothing but the next sub-step, or the poll of the queue with the iteration closed. -/
theorem State.subStep4_eq (s : State) :
    s.subStep4 = if s.timerGateFires then { s.beforePoll.pollEvents s.hostQueue with phase := .s1 }
      else { s with phase := .s1 } := by
  have h : { s with lastTimer := s.now }.tickTimers.hostQueue = s.hostQueue := by rw [State.tickTimers_frame]
  simp only [State.subStep4, State.poll, State.beforePoll, State.handOff, h]

/-! ### Publisher -/

/-- A publish changes the Snapshot Record only, and of it the log and the published copy. -/
theorem State.publish_frame (s : State) (l : TraceLine) :
    s.publish l = { s with snap := { log := (s.publish l).snap.log, pub := s.ms, pause := s.snap.pause } } := rfl

theorem length_appendLine_le (cap : Nat) (log : List TraceLine) (l : TraceLine) (h : log.length ≤ cap) :
    (appendLine cap log l).length ≤ cap := by
  simp only [appendLine]
  split
  · simp; omega
  · omega

/-- An observer operation changes the pause flag, the stop request or the answer, and nothing else. -/
theorem State.observe_frame (s : State) (op : ObserverOp) :
    s.observe op = { s with
      snap := { s.snap with pause := (s.observe op).snap.pause }
      stopPending := (s.observe op).stopPending
      reply := (s.observe op).reply } := by
  cases op
  · simp only [State.observe, State.setPause]
    split <;> rfl
  · simp only [State.observe, State.requestStop]
    split <;> rfl
  · rfl

/-- Retiring an instruction changes the Snapshot Record and the next sub-step only. -/
theorem State.retire_frame (l : TraceLine) (t : State) :
    State.retire l t = { t with snap := (State.retire l t).snap, phase := (State.retire l t).phase } := by
  simp only [State.retire]
  split <;> rfl

/-! ### Steps -/

theorem State.isRunning_iff (s : State) : s.isRunning = true ↔ s.runState = .running := by
  rw [State.isRunning, decide_eq_true_iff]

theorem State.mayExecute_iff (s : State) : s.mayExecute = true ↔ s.pausedSeen = false ∧ s.wait = .idle := by
  rw [State.mayExecute, Bool.and_eq_true, Bool.not_eq_true', decide_eq_true_iff]

theorem State.fetchable_iff (s : State) : s.fetchable = true ↔ s.ms.pc.toNat ≤ 0xFFE := by
  rw [State.fetchable, decide_eq_true_iff]

theorem State.stopCallerBlocked_iff (s : State) :
    s.stopCallerBlocked = true ↔ s.stopPending = true ∧ s.runState = .running := by
  rw [State.stopCallerBlocked, Bool.and_eq_true, State.isRunning_iff]

/-- Where the thread has the move, the step is its next sub-step. -/
theorem step_of_threadMoves {s : State} {rest : List Turn} (h : s.threadMoves rest) :
    step s = { s with turns := rest }.threadStep := by
  obtain ⟨hr, ht | ⟨ht, rfl⟩ | ⟨hp, rfl, op, more, ht⟩⟩ := h
  · simp only [step, State.nextTurn, ht, State.holdsBack, State.take, State.isRunning, hr]
    rfl
  · have : step s = s.threadStep := by
      simp only [step, State.nextTurn, ht, State.isRunning, hr]
      rfl
    rw [this, ← ht]
  · have hb := s.stopCallerBlocked_iff.mpr ⟨hp, hr⟩
    simp only [step, State.nextTurn, ht, State.holdsBack, hb, if_true]
    rw [← ht]

theorem step_s1 {s : State} {rest : List Turn} (hm : s.threadMoves rest) (hp : s.phase = .s1) :
    step s = .next (State.subStep1 { s with turns := rest }) := by
  simp only [step_of_threadMoves hm, State.threadStep, hp]

theorem step_s2 {s : State} {rest : List Turn} (hm : s.threadMoves rest) (hp : s.phase = .s2) :
    step s = .next (State.subStep2 { s with turns := rest }) := by
  simp only [step_of_threadMoves hm, State.threadStep, hp]

theorem step_s3 {s : State} {rest : List Turn} (hm : s.threadMoves rest) (hp : s.phase = .s3) :
    step s = State.subStep3 { s with turns := rest } := by
  simp only [step_of_threadMoves hm, State.threadStep, hp]

theorem step_s4 {s : State} {rest : List Turn} (hm : s.threadMoves rest) (hp : s.phase = .s4) :
    step s = .next (State.subStep4 { s with turns := rest }) := by
  simp only [step_of_threadMoves hm, State.threadStep, hp]

/-- The cases of one step: another agent's turn, a turn the ended thread lets pass, or a sub-step of the running thread. -/
theorem step_cases {s t : State} (h : step s = .next t) :
    (∃ op rest, s.turns = .observer op :: rest ∧ s.stopCallerBlocked = false ∧ t = { s with turns := rest }.observe op) ∨
    (∃ e rest, s.turns = .host e :: rest ∧ t = { s with turns := rest, hostQueue := s.hostQueue ++ [e] }) ∨
    (∃ n rest, s.turns = .elapse n :: rest ∧ t = { s with turns := rest, clock := s.clock + n }) ∨
    (∃ rest, s.turns = .thread :: rest ∧ s.runState ≠ .running ∧ t = { s with turns := rest }) ∨
    (∃ rest, s.threadMoves rest ∧ { s with turns := rest }.threadStep = .next t) := by
  by_cases hm : ∃ rest, s.threadMoves rest
  · obtain ⟨rest, hm⟩ := hm
    exact .inr (.inr (.inr (.inr ⟨rest, hm, (step_of_threadMoves hm).symm.trans h⟩)))
  · simp only [step, State.nextTurn] at h
    split at h
    · next turn rest hs =>
      cases turn with
      | observer op =>
        have hb : s.stopCallerBlocked = false := by
          cases hb : s.stopCallerBlocked
          · rfl
          · obtain ⟨hp, hr⟩ := s.stopCallerBlocked_iff.mp hb
            exact absurd ⟨s.turns, hr, .inr (.inr ⟨hp, rfl, op, rest, hs⟩)⟩ hm
        simp only [State.holdsBack, hb, Bool.false_eq_true, if_false, State.take, Host.Outcome.next.injEq] at h
        exact .inl ⟨op, rest, hs, hb, h.symm⟩
      | host e =>
        simp only [State.holdsBack, Bool.false_eq_true, if_false, State.take, Host.Outcome.next.injEq] at h
        exact .inr (.inl ⟨e, rest, hs, h.symm⟩)
      | elapse n =>
        simp only [State.holdsBack, Bool.false_eq_true, if_false, State.take, Host.Outcome.next.injEq] at h
        exact .inr (.inr (.inl ⟨n, rest, hs, h.symm⟩))
      | thread =>
        have hr : s.runState ≠ .running := fun hr => hm ⟨rest, hr, .inl hs⟩
        have hn : ¬ State.isRunning { s with turns := rest } = true := mt (State.isRunning_iff _).mp hr
        simp only [State.holdsBack, Bool.false_eq_true, if_false, State.take] at h
        rw [if_neg hn, Host.Outcome.next.injEq] at h
        exact .inr (.inr (.inr (.inl ⟨rest, hs, hr, h.symm⟩)))
    · next hs =>
      have hn : ¬ s.isRunning = true := fun hr => hm ⟨[], s.isRunning_iff.mp hr, .inr (.inl ⟨hs, rfl⟩)⟩
      rw [if_neg hn] at h
      cases h

/-- The cases of a sub-step of the thread. -/
theorem State.threadStep_cases {s t : State} (h : s.threadStep = .next t) :
    (s.phase = .s1 ∧ t = s.subStep1) ∨ (s.phase = .s2 ∧ t = s.subStep2) ∨ (s.phase = .s4 ∧ t = s.subStep4) ∨
    (s.phase = .s3 ∧ (s.pausedSeen = true ∨ s.wait ≠ .idle) ∧ t = { s with phase := .s4 }) ∨
    (s.phase = .s3 ∧ s.pausedSeen = false ∧ s.wait = .idle ∧ 0xFFE < s.ms.pc.toNat ∧
      t = s.raise .fetchOutOfRange none (.pc s.ms.pc.toNat)) ∨
    (s.phase = .s3 ∧ s.pausedSeen = false ∧ s.wait = .idle ∧ s.ms.pc.toNat ≤ 0xFFE ∧
      ∃ u, exec s.fetched s = .next u ∧ t = u.retire s.line) := by
  simp only [State.threadStep] at h
  split at h
  · next hp => exact .inl ⟨hp, by simpa using h.symm⟩
  · next hp => exact .inr (.inl ⟨hp, by simpa using h.symm⟩)
  · next hp =>
    refine .inr (.inr (.inr ?_))
    simp only [State.subStep3] at h
    split at h
    · next hm =>
      obtain ⟨hm1, hm2⟩ := s.mayExecute_iff.mp hm
      refine .inr ?_
      simp only [State.instrStep] at h
      split at h
      · next hf =>
        refine .inr ⟨hp, hm1, hm2, s.fetchable_iff.mp hf, ?_⟩
        cases he : exec s.fetched s with
        | next u =>
          rw [he] at h
          simp only [mapNext, Host.Outcome.next.injEq] at h
          exact ⟨u, rfl, h.symm⟩
        | fault r => rw [he] at h; cases h
        | refused r => rw [he] at h; cases h
      · next hf =>
        have := mt s.fetchable_iff.mpr hf
        exact .inl ⟨hp, hm1, hm2, by omega, by simpa using h.symm⟩
    · next hm =>
      refine .inl ⟨hp, ?_, by simpa using h.symm⟩
      by_cases hq : s.pausedSeen = true
      · exact .inl hq
      · exact .inr fun hw => hm (s.mayExecute_iff.mpr ⟨by simpa using hq, hw⟩)
  · next hp => exact .inr (.inr (.inl ⟨hp, by simpa using h.symm⟩))

end Sys2Proof.Machine
end

