-- ==== Sys2Proof/Laws/PerInstr.lean ====
section
/-! SUPPORT. Statements for all instructions, one lemma per constructor. Family FixedBits: the word of an instruction has
the fixed bits of a row of the opcode map under the instruction's own mnemonic (R71, R74), and the word of a well-formed
unrecognized term those of none (R76). -/

namespace Sys2Proof.Laws.FixedBits

/-- The word of the instruction is in the row of its mnemonic, or, for an unrecognized term, in no row. -/
def Statement : Instr → Prop
  | .unrecognized w => Instr.wf (.unrecognized w) = true → ∀ r ∈ opcodeTable, r.matches (encode (.unrecognized w)) = false
  | i => ∃ r ∈ opcodeTable, r.mnemonic = i.mnemonic ∧ r.matches (encode i) = true

/-- A word of format A is in the row of its major. -/
theorem wordA_matches (name : String) (m : Nibble) (nnn : Addr) (p : Word) (h : wordXK m 0 0 = p) :
    (Row.mk name p 0xF000).matches (wordA m nnn) = true := by
  show (_ &&& 0xF000#16 == p) = true
  rw [mask_major, fieldMajor_wordA, h, beq_self_eq_true]

/-- A word of format XK is in the row of its major. -/
theorem wordXK_matches (name : String) (m : Nibble) (x : Reg) (kk : Byte) (p : Word) (h : wordXK m 0 0 = p) :
    (Row.mk name p 0xF000).matches (wordXK m x kk) = true := by
  show (_ &&& 0xF000#16 == p) = true
  rw [mask_major, fieldMajor_wordXK, h, beq_self_eq_true]

/-- A word of format XYN is in the row of its major. -/
theorem wordD_matches (name : String) (m : Nibble) (x y : Reg) (n : Nibble) (p : Word) (h : wordXK m 0 0 = p) :
    (Row.mk name p 0xF000).matches (wordXYN m x y n) = true := by
  show (_ &&& 0xF000#16 == p) = true
  rw [mask_major, fieldMajor_wordXYN, h, beq_self_eq_true]

/-- A word of format XY is in the row of its major and function nibble. -/
theorem wordXY_matches (name : String) (m : Nibble) (x y : Reg) (n : Nibble) (p : Word) (h : wordXYN m 0 0 n = p) :
    (Row.mk name p 0xF00F).matches (wordXYN m x y n) = true := by
  show (_ &&& 0xF00F#16 == p) = true
  rw [mask_major_n, fieldMajor_wordXYN, fieldN_wordXYN, h, beq_self_eq_true]

/-- A word of format XF is in the row of its major and function byte. -/
theorem wordXF_matches (name : String) (m : Nibble) (x : Reg) (kk : Byte) (p : Word) (h : wordXK m 0 kk = p) :
    (Row.mk name p 0xF0FF).matches (wordXK m x kk) = true := by
  show (_ &&& 0xF0FF#16 == p) = true
  rw [mask_major_kk, fieldMajor_wordXK, fieldKK_wordXK, h, beq_self_eq_true]

theorem cls : Statement .cls :=
  ⟨⟨"CLS", 0x00E0, 0xFFFF⟩, by decide, rfl, by decide⟩

theorem ret : Statement .ret :=
  ⟨⟨"RET", 0x00EE, 0xFFFF⟩, by decide, rfl, by decide⟩

theorem jp (nnn : Addr) : Statement (.jp nnn) :=
  ⟨⟨"JP", 0x1000, 0xF000⟩, by decide, rfl, wordA_matches _ _ _ _ (by decide)⟩

theorem call (nnn : Addr) : Statement (.call nnn) :=
  ⟨⟨"CALL", 0x2000, 0xF000⟩, by decide, rfl, wordA_matches _ _ _ _ (by decide)⟩

theorem ldI (nnn : Addr) : Statement (.ldI nnn) :=
  ⟨⟨"LD_I", 0xA000, 0xF000⟩, by decide, rfl, wordA_matches _ _ _ _ (by decide)⟩

theorem jpV0 (nnn : Addr) : Statement (.jpV0 nnn) :=
  ⟨⟨"JP_V0", 0xB000, 0xF000⟩, by decide, rfl, wordA_matches _ _ _ _ (by decide)⟩

theorem seImm (x : Reg) (kk : Byte) : Statement (.seImm x kk) :=
  ⟨⟨"SE_IMM", 0x3000, 0xF000⟩, by decide, rfl, wordXK_matches _ _ _ _ _ (by decide)⟩

theorem sneImm (x : Reg) (kk : Byte) : Statement (.sneImm x kk) :=
  ⟨⟨"SNE_IMM", 0x4000, 0xF000⟩, by decide, rfl, wordXK_matches _ _ _ _ _ (by decide)⟩

theorem ldImm (x : Reg) (kk : Byte) : Statement (.ldImm x kk) :=
  ⟨⟨"LD_IMM", 0x6000, 0xF000⟩, by decide, rfl, wordXK_matches _ _ _ _ _ (by decide)⟩

theorem addImm (x : Reg) (kk : Byte) : Statement (.addImm x kk) :=
  ⟨⟨"ADD_IMM", 0x7000, 0xF000⟩, by decide, rfl, wordXK_matches _ _ _ _ _ (by decide)⟩

theorem rnd (x : Reg) (kk : Byte) : Statement (.rnd x kk) :=
  ⟨⟨"RND", 0xC000, 0xF000⟩, by decide, rfl, wordXK_matches _ _ _ _ _ (by decide)⟩

theorem seReg (x y : Reg) : Statement (.seReg x y) :=
  ⟨⟨"SE_REG", 0x5000, 0xF00F⟩, by decide, rfl, wordXY_matches _ _ _ _ _ _ (by decide)⟩

theorem ldReg (x y : Reg) : Statement (.ldReg x y) :=
  ⟨⟨"LD_REG", 0x8000, 0xF00F⟩, by decide, rfl, wordXY_matches _ _ _ _ _ _ (by decide)⟩

theorem orReg (x y : Reg) : Statement (.orReg x y) :=
  ⟨⟨"OR", 0x8001, 0xF00F⟩, by decide, rfl, wordXY_matches _ _ _ _ _ _ (by decide)⟩

theorem andReg (x y : Reg) : Statement (.andReg x y) :=
  ⟨⟨"AND", 0x8002, 0xF00F⟩, by decide, rfl, wordXY_matches _ _ _ _ _ _ (by decide)⟩

theorem xorReg (x y : Reg) : Statement (.xorReg x y) :=
  ⟨⟨"XOR", 0x8003, 0xF00F⟩, by decide, rfl, wordXY_matches _ _ _ _ _ _ (by decide)⟩

theorem addReg (x y : Reg) : Statement (.addReg x y) :=
  ⟨⟨"ADD_REG", 0x8004, 0xF00F⟩, by decide, rfl, wordXY_matches _ _ _ _ _ _ (by decide)⟩

theorem sub (x y : Reg) : Statement (.sub x y) :=
  ⟨⟨"SUB", 0x8005, 0xF00F⟩, by decide, rfl, wordXY_matches _ _ _ _ _ _ (by decide)⟩

theorem shr (x y : Reg) : Statement (.shr x y) :=
  ⟨⟨"SHR", 0x8006, 0xF00F⟩, by decide, rfl, wordXY_matches _ _ _ _ _ _ (by decide)⟩

theorem subn (x y : Reg) : Statement (.subn x y) :=
  ⟨⟨"SUBN", 0x8007, 0xF00F⟩, by decide, rfl, wordXY_matches _ _ _ _ _ _ (by decide)⟩

theorem shl (x y : Reg) : Statement (.shl x y) :=
  ⟨⟨"SHL", 0x800E, 0xF00F⟩, by decide, rfl, wordXY_matches _ _ _ _ _ _ (by decide)⟩

theorem sneReg (x y : Reg) : Statement (.sneReg x y) :=
  ⟨⟨"SNE_REG", 0x9000, 0xF00F⟩, by decide, rfl, wordXY_matches _ _ _ _ _ _ (by decide)⟩

theorem drw (x y : Reg) (n : Nibble) : Statement (.drw x y n) :=
  ⟨⟨"DRW", 0xD000, 0xF000⟩, by decide, rfl, wordD_matches _ _ _ _ _ _ (by decide)⟩

theorem skp (x : Reg) : Statement (.skp x) :=
  ⟨⟨"SKP", 0xE09E, 0xF0FF⟩, by decide, rfl, wordXF_matches _ _ _ _ _ (by decide)⟩

theorem sknp (x : Reg) : Statement (.sknp x) :=
  ⟨⟨"SKNP", 0xE0A1, 0xF0FF⟩, by decide, rfl, wordXF_matches _ _ _ _ _ (by decide)⟩

theorem ldVxDt (x : Reg) : Statement (.ldVxDt x) :=
  ⟨⟨"LD_VX_DT", 0xF007, 0xF0FF⟩, by decide, rfl, wordXF_matches _ _ _ _ _ (by decide)⟩

theorem ldVxK (x : Reg) : Statement (.ldVxK x) :=
  ⟨⟨"LD_VX_K", 0xF00A, 0xF0FF⟩, by decide, rfl, wordXF_matches _ _ _ _ _ (by decide)⟩

theorem ldDtVx (x : Reg) : Statement (.ldDtVx x) :=
  ⟨⟨"LD_DT_VX", 0xF015, 0xF0FF⟩, by decide, rfl, wordXF_matches _ _ _ _ _ (by decide)⟩

theorem ldStVx (x : Reg) : Statement (.ldStVx x) :=
  ⟨⟨"LD_ST_VX", 0xF018, 0xF0FF⟩, by decide, rfl, wordXF_matches _ _ _ _ _ (by decide)⟩

theorem addIVx (x : Reg) : Statement (.addIVx x) :=
  ⟨⟨"ADD_I_VX", 0xF01E, 0xF0FF⟩, by decide, rfl, wordXF_matches _ _ _ _ _ (by decide)⟩

theorem ldFVx (x : Reg) : Statement (.ldFVx x) :=
  ⟨⟨"LD_F_VX", 0xF029, 0xF0FF⟩, by decide, rfl, wordXF_matches _ _ _ _ _ (by decide)⟩

theorem ldBVx (x : Reg) : Statement (.ldBVx x) :=
  ⟨⟨"LD_B_VX", 0xF033, 0xF0FF⟩, by decide, rfl, wordXF_matches _ _ _ _ _ (by decide)⟩

theorem ldMemVx (x : Reg) : Statement (.ldMemVx x) :=
  ⟨⟨"LD_MEM_VX", 0xF055, 0xF0FF⟩, by decide, rfl, wordXF_matches _ _ _ _ _ (by decide)⟩

theorem ldVxMem (x : Reg) : Statement (.ldVxMem x) :=
  ⟨⟨"LD_VX_MEM", 0xF065, 0xF0FF⟩, by decide, rfl, wordXF_matches _ _ _ _ _ (by decide)⟩

theorem unrecognized (w : Word) : Statement (.unrecognized w) := by
  intro h r hr
  have h' : recognized w = false := by simpa [Instr.wf] using h
  simpa [encode] using List.any_eq_false.mp h' r hr

end Sys2Proof.Laws.FixedBits
end

