-- ==== Sys2Proof/Tests/Slice0.lean ====
section
/-! SUPPORT. The model's own tests: each is one decode, one operation or one step on a small state, with its expected result
taken from the spec (V-* and L1-* are the vectors of 95_test_vectors.md). The last part shows, for each statement with
hypotheses, a concrete input that meets them. -/

namespace Sys2Proof.Tests

open Sys2Proof Sys2Proof.Machine

/-! ### Helpers -/

/-- The next state, or reset where there is none. -/
def nextOf : Outcome → State
  | .next t => t
  | _ => State.reset

/-- The state after one step that runs the word `w`. -/
def after (w : Nat) (s : State) : State := nextOf (step (s.withFetchWord 16 w))

/-- Reset with some `V` registers set. -/
def withV (vs : List (Reg × Byte)) : State := vs.foldl (fun s p => s.setV p.1 p.2) State.reset

/-- The set cells of one row of the framebuffer, by column. -/
def rowCells (s : State) (y : Fin 32) : List Nat := (List.range 64).filter fun x => s.fb.cell (Fin.ofNat 64 x) y

/-- The fault record of an ended machine. -/
def faultRecord (s : State) : Option FaultRecord :=
  match s.runState with
  | .faulted r => some r
  | _ => none

/-- Reset with `SP` and one slot set. -/
def withStack (sp : Fin 17) (k : Reg) (w : Word) : State :=
  { State.reset with ms.sp := sp, ms.stack := State.reset.ms.stack.set k.val w }

/-- The thread at sub-step `p`, with the given time sample. -/
def atPhase (p : Phase) (now : Nat) : State := { State.reset with phase := p, now := now, clock := now }

/-- S4 at a timer-gate firing, with the given events queued and the given wait. -/
def atPoll (es : List HostEvent) (w : Wait) : State := { atPhase .s4 16 with hostQueue := es, wait := w }

/-- Reset with an observer's turn first. -/
def observing (op : ObserverOp) : State := { State.reset with turns := [.observer op] }

/-- The machine whose observer has `readSnapshot` next while its `stop()` is pending, at sub-step `p`. -/
def blocked (p : Phase) (now : Nat) : State :=
  { atPhase p now with stopPending := true, turns := [.observer .readSnapshot] }

/-- A machine that has stopped. -/
def stopped : State := { State.reset with runState := .stopped .hostQuit }

/-- The machine standing at a self-jump that has run: `1200` at 0x200, its line the last of the log (L1-11). -/
def selfLoop : State := { after 0x1200 State.reset with phase := .s3 }

/-- A KEYMAP of characters, one of them under two keys. -/
def charKeymap : Vector Char 16 := #v['x', '1', '2', '3', 'q', 'w', 'e', 'a', 's', 'q', 'z', 'c', '4', 'r', 'f', 'v']

/-- A framebuffer with one cell set. -/
def oneCell (x : Fin 64) (y : Fin 32) : Framebuffer := Framebuffer.blank.toggle x y

/-! ### Well-formedness: the one check refuses a recognized word as unrecognized (R76) -/

theorem test_wf_refuses_recognized : (Instr.unrecognized 0x00E0).wf = false := by decide
theorem test_wf_refuses_recognized_misc : (Instr.unrecognized 0xF30A).wf = false := by decide
theorem test_wf_accepts_unrecognized : (Instr.unrecognized 0x5121).wf = true := by decide
theorem test_wf_accepts_listed : (Instr.drw 15 15 15).wf = true := by decide

/-! ### Decoding: one word of each instruction, its bits written out from the opcode map of 30_encoding.md -/

theorem test_decode_cls : decode 0b0000000011100000#16 = .cls := by decide
theorem test_decode_ret : decode 0b0000000011101110#16 = .ret := by decide
theorem test_decode_jp : decode 0b0001001000001000#16 = .jp 0x208 := by decide
theorem test_decode_call : decode 0b0010001000010000#16 = .call 0x210 := by decide
theorem test_decode_seImm : decode 0b0011001101000010#16 = .seImm 3 0x42 := by decide
theorem test_decode_sneImm : decode 0b0100001101000010#16 = .sneImm 3 0x42 := by decide
theorem test_decode_seReg : decode 0b0101000100100000#16 = .seReg 1 2 := by decide
theorem test_decode_ldImm : decode 0b0110101010011101#16 = .ldImm 10 0x9D := by decide
theorem test_decode_addImm : decode 0b0111000100000010#16 = .addImm 1 2 := by decide
theorem test_decode_ldReg : decode 0b1000000100100000#16 = .ldReg 1 2 := by decide
theorem test_decode_orReg : decode 0b1000000100100001#16 = .orReg 1 2 := by decide
theorem test_decode_andReg : decode 0b1000000100100010#16 = .andReg 1 2 := by decide
theorem test_decode_xorReg : decode 0b1000000100100011#16 = .xorReg 1 2 := by decide
theorem test_decode_addReg : decode 0b1000000100100100#16 = .addReg 1 2 := by decide
theorem test_decode_sub : decode 0b1000000100100101#16 = .sub 1 2 := by decide
theorem test_decode_shr : decode 0b1000000100100110#16 = .shr 1 2 := by decide
theorem test_decode_subn : decode 0b1000000100100111#16 = .subn 1 2 := by decide
theorem test_decode_shl : decode 0b1000000100101110#16 = .shl 1 2 := by decide
theorem test_decode_sneReg : decode 0b1001000100100000#16 = .sneReg 1 2 := by decide
theorem test_decode_ldI : decode 0b1010111111111110#16 = .ldI 0xFFE := by decide
theorem test_decode_jpV0 : decode 0b1011001100000001#16 = .jpV0 0x301 := by decide
theorem test_decode_rnd : decode 0b1100000100001111#16 = .rnd 1 0x0F := by decide
theorem test_decode_drw : decode 0b1101001000110001#16 = .drw 2 3 1 := by decide
theorem test_decode_skp : decode 0b1110010110011110#16 = .skp 5 := by decide
theorem test_decode_sknp : decode 0b1110010110100001#16 = .sknp 5 := by decide
theorem test_decode_ldVxDt : decode 0b1111001100000111#16 = .ldVxDt 3 := by decide
theorem test_decode_ldVxK : decode 0b1111001100001010#16 = .ldVxK 3 := by decide
theorem test_decode_ldDtVx : decode 0b1111001100010101#16 = .ldDtVx 3 := by decide
theorem test_decode_ldStVx : decode 0b1111001100011000#16 = .ldStVx 3 := by decide
theorem test_decode_addIVx : decode 0b1111001000011110#16 = .addIVx 2 := by decide
theorem test_decode_ldFVx : decode 0b1111010100101001#16 = .ldFVx 5 := by decide
theorem test_decode_ldBVx : decode 0b1111010100110011#16 = .ldBVx 5 := by decide
theorem test_decode_ldMemVx : decode 0b1111111101010101#16 = .ldMemVx 15 := by decide
theorem test_decode_ldVxMem : decode 0b1111001001100101#16 = .ldVxMem 2 := by decide
/-- V-CY-7, V-CY-8. -/
theorem test_decode_unrecognized :
    [0x0123#16, 0xE19F#16, 0xF1FF#16, 0x800F#16, 0x8008#16, 0xF0A0#16].all (fun w => decode w == .unrecognized w) := by
  decide
theorem test_decode_bytes_big_endian : decodeBytes [0x12, 0x34, 0x56] = .ok (.jp 0x234, [0x56]) := by rfl
theorem test_decode_truncated : decodeBytes [0x12] = .error .truncated := by rfl
theorem test_table_word : decodeTableWord 16 0xD123 = some (.drw 1 2 3) := by decide

/-! ### One step of each instruction -/

/-- V-CY-1, V-DR-1. -/
theorem test_cls_clears : (rowCells (after 0x00E0 { State.reset with fb := oneCell 5 7 }) 7, (after 0x00E0 State.reset).ms.pc)
    = ([], 0x202) := by decide
/-- V-DR-3: a cell set before is erased and reported. -/
theorem test_drw_collides :
    let t := after 0xD231 ((({ withV [(2, 4), (3, 7)] with fb := oneCell 5 7 } : State).setI 0x300).writeBytes 0x300 [0xC0])
    (rowCells t 7, t.getV vf) = ([4], 1) := by decide
/-- L1-5: columns and rows wrap. -/
theorem test_drw_wraps :
    let t := after 0xD012 (((withV [(0, 63), (1, 31)]).setI 0x300).writeBytes 0x300 [0xFF, 0xFF])
    (rowCells t 31, rowCells t 0, t.getV vf) = ([0, 1, 2, 3, 4, 5, 6, 63], [0, 1, 2, 3, 4, 5, 6, 63], 0) := by decide
/-- V-CF-5. -/
theorem test_ret_pops : let t := after 0x00EE (withStack 1 0 0x206)
    (t.ms.sp, t.ms.pc, t.slot 0) = (0, 0x206, 0x206) := by decide
/-- V-CF-6. -/
theorem test_ret_underflow : faultRecord (after 0x00EE State.reset)
    = some { code := .stackUnderflow, pc := 0x200, opcode := some 0x00EE, info := .sp 0 } := by decide
/-- V-CF-1. -/
theorem test_jp_self : let t := after 0x1208 (State.reset.jump 0x208)
    (t.ms.pc, t.ms.endloop) = (0x208, true) := by decide
/-- V-CF-2. -/
theorem test_jp_next : let t := after 0x120A (State.reset.jump 0x208)
    (t.ms.pc, t.ms.endloop) = (0x20A, false) := by decide
/-- V-CF-3. -/
theorem test_call_pushes : let t := after 0x2210 (State.reset.jump 0x204)
    (t.slot 0, t.ms.sp, t.ms.pc) = (0x206, 1, 0x210) := by decide
/-- V-CF-4. -/
theorem test_call_overflow : let t := after 0x2300 (withStack 16 0 0x206)
    (faultRecord t, t.ms.sp, t.ms.pc)
      = (some { code := .stackOverflow, pc := 0x200, opcode := some 0x2300, info := .sp 16 }, 16, 0x200) := by decide
/-- V-CF-8. -/
theorem test_jpV0_exact_sum : (after 0xBFFF (withV [(0, 0xFF)])).ms.pc = 0x10FE := by decide
/-- V-CF-9. -/
theorem test_jpV0_no_endloop : let t := after 0xB200 State.reset
    (t.ms.pc, t.ms.endloop) = (0x200, false) := by decide
/-- V-CF-10. -/
theorem test_seImm_skips : (after 0x3342 (withV [(3, 0x42)])).ms.pc = 0x204 := by decide
/-- V-CF-11. -/
theorem test_seImm_falls_through : (after 0x3342 (withV [(3, 0x41)])).ms.pc = 0x202 := by decide
/-- V-CF-12. -/
theorem test_sneImm_skips : (after 0x4342 (withV [(3, 0x41)])).ms.pc = 0x204 := by decide
/-- V-CF-13. -/
theorem test_seReg_skips : (after 0x5120 (withV [(1, 9), (2, 9)])).ms.pc = 0x204 := by decide
/-- V-CF-14. -/
theorem test_sneReg_skips : (after 0x9120 (withV [(1, 9), (2, 8)])).ms.pc = 0x204 := by decide
/-- V-AL-1. -/
theorem test_ldImm : (after 0x6A9D State.reset).getV 10 = 0x9D := by decide
/-- V-AL-2. -/
theorem test_addImm_no_flag : let t := after 0x7102 (withV [(1, 0xFF), (15, 7)])
    (t.getV 1, t.getV vf) = (1, 7) := by decide
/-- V-AL-3. -/
theorem test_ldReg : (after 0x8120 (withV [(2, 0x33)])).getV 1 = 0x33 := by decide
/-- V-AL-4. -/
theorem test_or_clears_vf : let t := after 0x8121 (withV [(1, 0xF0), (2, 0x0F), (15, 1)])
    (t.getV 1, t.getV vf) = (0xFF, 0) := by decide
/-- V-AL-26: the result is lost for X = 0xF. -/
theorem test_or_vf_target : (after 0x8F11 (withV [(15, 0x55)])).getV vf = 0 := by decide
/-- V-AL-27. -/
theorem test_and_vf_source : let t := after 0x81F2 (withV [(1, 0xC3), (15, 0x0F)])
    (t.getV 1, t.getV vf) = (3, 0) := by decide
/-- V-AL-6. -/
theorem test_xor : let t := after 0x8123 (withV [(1, 0xF0), (2, 0x3C)])
    (t.getV 1, t.getV vf) = (0xCC, 0) := by decide
/-- V-AL-7, V-AL-8: 255 is no carry. -/
theorem test_addReg_carry_edge :
    let t := after 0x8124 (withV [(1, 0xFF), (2, 1)])
    let u := after 0x8124 (withV [(1, 0x80), (2, 0x7F)])
    (t.getV 1, t.getV vf, u.getV 1, u.getV vf) = (0, 1, 0xFF, 0) := by decide
/-- V-AL-16, V-AL-17. -/
theorem test_addReg_vf : ((after 0x8F14 (withV [(15, 0xFF), (1, 1)])).getV vf, (after 0x8FF4 (withV [(15, 0x80)])).getV vf)
    = (2, 2) := by decide
/-- L1-3, V-AL-9: strictly greater. -/
theorem test_sub_borrow_edge :
    let t := after 0x8345 (withV [(3, 1), (4, 2)])
    let u := after 0x8125 (withV [(1, 5), (2, 5)])
    (t.getV 3, t.getV vf, u.getV 1, u.getV vf) = (0xFF, 0, 0, 0) := by decide
/-- V-AL-19, V-AL-20. -/
theorem test_sub_vf :
    let u := after 0x81F5 (withV [(1, 5), (15, 3)])
    ((after 0x8F15 (withV [(15, 5), (1, 3)])).getV vf, u.getV vf, u.getV 1) = (0xFE, 1, 4) := by decide
/-- V-AL-13: Y is not read. -/
theorem test_shr : let t := after 0x8126 (withV [(1, 3), (2, 0xAA)])
    (t.getV 1, t.getV vf, t.getV 2) = (1, 1, 0xAA) := by decide
/-- V-AL-23. -/
theorem test_shr_vf : (after 0x8F06 (withV [(15, 3)])).getV vf = 0 := by decide
/-- V-AL-11. -/
theorem test_subn : let t := after 0x8127 (withV [(1, 3), (2, 10)])
    (t.getV 1, t.getV vf) = (7, 1) := by decide
/-- V-AL-21, V-AL-22. -/
theorem test_subn_vf :
    let u := after 0x81F7 (withV [(1, 3), (15, 5)])
    ((after 0x8F17 (withV [(15, 5), (1, 3)])).getV vf, u.getV vf, u.getV 1) = (3, 1, 0xFE) := by decide
/-- V-AL-14. -/
theorem test_shl : let t := after 0x810E (withV [(1, 0x81)])
    (t.getV 1, t.getV vf) = (2, 1) := by decide
/-- V-AL-24, V-AL-25. -/
theorem test_shl_vf : ((after 0x8F0E (withV [(15, 0x80)])).getV vf, (after 0x8F0E (withV [(15, 0x7F)])).getV vf) = (2, 0) := by
  decide
/-- V-AL-29: whatever is drawn. -/
theorem test_rnd_masked_off : (nextOf (exec (.rnd 1 0) State.reset)).getV 1 = 0 := by
  simp [exec, execRnd, nextOf]
/-- V-IM-1. -/
theorem test_ldI : (after 0xAFFF State.reset).ms.i = 0x0FFF := by decide
/-- V-IM-2, V-IM-4. -/
theorem test_addIVx_wraps :
    let t := after 0xF21E ((withV [(2, 0x10), (15, 9)]).setI 0x300)
    (t.ms.i, t.getV vf, (after 0xF11E ((withV [(1, 1)]).setI 0xFFFF)).ms.i) = (0x310, 9, 0) := by decide
/-- V-IM-5, V-IM-7. -/
theorem test_ldFVx : ((after 0xF029 (withV [(0, 5)])).ms.i, (after 0xF029 (withV [(0, 0xFF)])).ms.i) = (0x19, 0x4FB) := by decide
/-- L1-6. -/
theorem test_bcd : let t := after 0xF533 ((withV [(5, 157)]).setI 0x300)
    (t.readBytes 0x300 3, t.ms.i) = ([1, 5, 7], 0x300) := by decide
/-- V-IM-11: no byte is written. -/
theorem test_bcd_outside : let t := after 0xF133 ((withV [(1, 7)]).setI 0xFFE)
    (faultRecord t, t.readBytes 0xFFE 2)
      = (some { code := .memoryOutOfRange, pc := 0x200, opcode := some 0xF133, info := .addr 0x1000 }, [0, 0]) := by decide
/-- V-IM-12. -/
theorem test_store_block : let t := after 0xF155 ((withV [(0, 0xFE), (1, 1), (2, 9)]).setI 0x400)
    (t.readBytes 0x400 3, t.ms.i) = ([0xFE, 1, 0], 0x400) := by decide
/-- V-IM-13, V-IM-14: the last block that fits, and the first that does not. -/
theorem test_store_edge :
    ((after 0xFF55 ((withV [(15, 9)]).setI 0xFF0)).readByte 0xFFF, (faultRecord (after 0xFF55 (State.reset.setI 0xFF1))).map (·.info))
      = (9, some (.addr 0x1000)) := by decide
/-- V-IM-15. -/
theorem test_load_block : let t := after 0xF265 (((withV [(3, 0x99)]).setI 0x300).writeBytes 0x300 [1, 5, 7])
    ([t.getV 0, t.getV 1, t.getV 2, t.getV 3], t.ms.i) = ([1, 5, 7, 0x99], 0x300) := by decide
/-- V-TK-1, V-TK-2. -/
theorem test_skp :
    ((after 0xE59E ((withV [(5, 7)]).setKey 7 true)).ms.pc, (after 0xE59E (withV [(5, 7)])).ms.pc) = (0x204, 0x202) := by decide
/-- V-TK-3. -/
theorem test_sknp :
    ((after 0xE5A1 (withV [(5, 7)])).ms.pc, (after 0xE5A1 ((withV [(5, 7)]).setKey 7 true)).ms.pc) = (0x204, 0x202) := by decide
/-- V-TK-4. -/
theorem test_key_index_outside : (faultRecord (after 0xE59E (withV [(5, 0x10)])), faultRecord (after 0xE5A1 (withV [(5, 0x10)])))
    = (some { code := .keyIndexOutOfRange, pc := 0x200, opcode := some 0xE59E, info := .index 0x10 },
       some { code := .keyIndexOutOfRange, pc := 0x200, opcode := some 0xE5A1, info := .index 0x10 }) := by decide
/-- V-TK-5. -/
theorem test_ldVxDt : (after 0xF307 (State.reset.setDt 0x3C)).getV 3 = 0x3C := by decide
/-- V-TK-6. -/
theorem test_ldDtVx : let t := after 0xF315 (withV [(3, 0x3C)])
    (t.ms.dt, t.ms.st) = (0x3C, 0) := by decide
/-- V-TK-7. -/
theorem test_ldStVx : let t := after 0xF318 (withV [(3, 5)])
    (t.ms.dt, t.ms.st) = (0, 5) := by decide
/-- V-TK-8. -/
theorem test_ldVxK : let t := after 0xF30A State.reset
    (t.wait, t.ms.pc, t.getV 3, t.snap.log) = (.waiting 3, 0x202, 0, [{ pc := 0x200, op := 0xF30A }]) := by decide
/-- V-CY-6. -/
theorem test_unrecognized : let t := after 0x5121 (withV [(1, 5), (2, 5)])
    (t.ms.pc, t.snap.log.map (·.text)) = (0x202, ["0200: 5121 - unknown/unimplemented instruction"]) := by decide

/-! ### The cycle, the latch, the scheduler, the publisher -/

/-- V-CY-2. -/
theorem test_last_fetch : let t := after 0x6001 (State.reset.jump 0xFFE)
    (t.getV 0, t.ms.pc) = (1, 0x1000) := by decide
/-- V-CY-3. -/
theorem test_fetch_outside : faultRecord (after 0x6001 (State.reset.jump 0xFFF))
    = some { code := .fetchOutOfRange, pc := 0xFFF, opcode := none, info := .pc 0xFFF } := by decide
/-- V-CY-4. -/
theorem test_odd_pc : let t := after 0x6123 (State.reset.jump 0x201)
    (t.getV 1, t.ms.pc) = (0x23, 0x203) := by decide
/-- V-SC-1, V-SC-2. -/
theorem test_instr_gate : ((nextOf (step (atPhase .s2 1))).phase, (nextOf (step (atPhase .s2 2))).phase) = (.s4, .s3) := by decide
/-- V-TK-9. -/
theorem test_poll_resolves_wait : let t := nextOf (step (atPoll [.keyDown 7] (.waiting 3)))
    (t.getV 3, t.keys.get 7, t.wait, t.snap.pub.v.get 3, t.snap.log) = (7, true, .idle, 0, []) := by decide
/-- V-TK-10, V-TK-12. -/
theorem test_poll_order :
    let t := nextOf (step (atPoll [.keyUp 7] (.waiting 3)))
    let u := nextOf (step (atPoll [.keyDown 7, .keyDown 2] (.waiting 3)))
    (t.wait, u.wait, u.getV 3, u.keys.get 2) = (.waiting 3, .idle, 7, true) := by decide
/-- V-TK-13, V-TK-14: the lowest entry matches, and a code in no entry matches none. -/
theorem test_keymap_lowest : let km := (Config.defaultKeymap.set 4 77).set 9 77
    (keyOf km 77, keyOf km 88) = (some 4, none) := by decide
/-- V-TK-13, V-TK-14 with characters as the host's codes, and what the machine holds for them. -/
theorem test_host_key_type :
    (keyOf charKeymap 'q', keyOf charKeymap 'p', keyOf (heldKeymap charKeymap) (heldCode charKeymap 'q'),
        keyOf (heldKeymap charKeymap) (heldCode charKeymap 'p'))
      = (some 4, none, some 4, none) := by decide
/-- R10: `P_INSTR` and `P_TIMER` at other rates. -/
theorem test_rates : ((Config.ofRates 700 50).pInstr, (Config.ofRates 700 50).pTimer) = (1, 20) := by decide
/-- V-SC-4, V-SC-5. -/
theorem test_timer_tick :
    let t := nextOf (step ((atPhase .s4 16).setDt 1))
    let u := nextOf (step { (atPhase .s4 16).setDt 5 with pausedSeen := true })
    (t.ms.dt, t.ms.st, u.ms.dt, u.fbOut) = (0, 0, 5, some u.fb) := by decide
/-- V-SC-6. -/
theorem test_quit : let t := nextOf (step (atPoll [.keyDown 1, .quit, .keyDown 2] .idle))
    (t.keys.get 1, t.runState, t.keys.get 2) = (true, .stopped .hostQuit, false) := by decide
/-- V-SC-7. -/
theorem test_stop : (nextOf (step { State.reset with stopPending := true })).runState = .stopped .stopRequest := by decide
/-- R266: `stop()` does not return before S1, so the observer's next operation is not answered before it; on the ended machine
it is. -/
theorem test_stop_blocks_caller :
    let t := nextOf (step { atPhase .s4 0 with turns := [.observer .stop, .observer .readSnapshot] })
    let u := nextOf (step t)
    let v := nextOf (step u)
    (t.stopPending, u.reply.isSome, u.turns, v.runState, (nextOf (step v)).reply.map (·.status))
      = (true, false, [.observer .readSnapshot], .stopped .stopRequest, some (.stopped .stopRequest)) := by decide
/-- V-SC-9, V-SC-10. -/
theorem test_publish_dedupe :
    let l : TraceLine := { pc := 0x200, op := 0x1200 }
    let s : State := { State.reset with snap := { State.reset.snap with log := [l] } }
    (((s.markEndloop true).publish l).snap.log, (s.publish l).snap.log) = ([l], [l, l]) := by decide
/-- L1-10: the oldest line goes. -/
theorem test_log_evicts : let l : TraceLine := { pc := 0x202, op := 0 }
    appendLine 2 [{ pc := 0x200, op := 0 }, { pc := 0x201, op := 0 }] l = [{ pc := 0x201, op := 0 }, l] := by decide
/-- L1-11: the self-jump's second line is suppressed. -/
theorem test_self_jump_suppressed : (nextOf (step selfLoop)).snap.log = [{ pc := 0x200, op := 0x1200 }] := by decide
/-- V-SC-11: a pause set after S2 read the flag does not stop this tick's instruction. -/
theorem test_pause_seen_next_tick : (after 0x6A9D (State.reset.setPause true)).getV 10 = 0x9D := by decide
/-- V-SC-12. -/
theorem test_snapshot_after_fault : let t := after 0x00EE State.reset
    let u := nextOf (step { t with turns := [.observer .readSnapshot] })
    (u.reply.map (·.status), u.reply.map (·.log), (t.requestStop).stopCallerBlocked)
      = (some (.faulted { code := .stackUnderflow, pc := 0x200, opcode := some 0x00EE, info := .sp 0 }), some [], false) := by
  decide
/-- V-RS-1, V-RS-2: 0xE01 bytes are refused and 0xE00 are loaded, whatever they are. -/
theorem test_start_limit (program : List Byte) (km : Vector String 16) :
    (program.length = 0xE01 → State.start Config.default true program km = .setupFailed) ∧
    (program.length = 0xE00 → State.start Config.default true program km = .started (State.boot Config.default program (heldKeymap km))) := by
  refine ⟨fun h => ?_, fun h => ?_⟩ <;> rw [State.start, h] <;> rfl

/-! ### Inputs that meet the hypotheses of the statements

Named after the statement; several theorems where a statement has several clauses. -/

theorem witness_DecodeOfEncode : (Instr.drw 15 0 15).wf = true ∧ (Instr.unrecognized 0xFFFF).wf = true := by decide
theorem witness_DecodeFollowsOpcodeMap :
    (∃ r ∈ opcodeTable, r.matches 0x00E0 = true) ∧ ∀ r ∈ opcodeTable, r.matches 0x00E1 = false := by decide
theorem witness_UnrecognizedWordClasses : decode 0x00E1 = .unrecognized 0x00E1 ∧ decode 0xF000 = .unrecognized 0xF000 := by
  decide

/-- The machine about to run the word `w` at reset. -/
abbrev readyWith (w : Nat) : State := State.reset.withFetchWord 16 w

/-- The thread has the move in each of the three ways: no turn listed, its own turn first, an observer's turn that blocks. -/
theorem witness_threadMoves (p : Phase) (now : Nat) :
    (atPhase p now).threadMoves [] ∧
    ({ atPhase p now with turns := [.thread, .elapse 1] } : State).threadMoves [.elapse 1] ∧
    (blocked p now).threadMoves [.observer .readSnapshot] :=
  ⟨⟨rfl, .inr (.inl ⟨rfl, rfl⟩)⟩, ⟨rfl, .inl rfl⟩, ⟨rfl, .inr (.inr ⟨rfl, rfl, _, _, rfl⟩)⟩⟩
theorem witness_ready :
    (readyWith 0x6A9D).ready [] ∧ ({ readyWith 0x6A9D with turns := [.thread, .elapse 1] } : State).ready [.elapse 1] ∧
    ({ readyWith 0x6A9D with stopPending := true, turns := [.observer .stop] } : State).ready [.observer .stop] :=
  ⟨⟨⟨⟨rfl, .inr (.inl ⟨rfl, rfl⟩)⟩, rfl⟩, rfl, rfl, by decide⟩, ⟨⟨⟨rfl, .inl rfl⟩, rfl⟩, rfl, rfl, by decide⟩,
    ⟨⟨⟨rfl, .inr (.inr ⟨rfl, rfl, _, _, rfl⟩)⟩, rfl⟩, rfl, rfl, by decide⟩⟩
theorem witness_StepRunsFetchedInstruction :
    decodeBytes ((readyWith 0x6A9D).readBytes (readyWith 0x6A9D).ms.pc.toNat 2) = .ok (.ldImm 10 0x9D, []) ∧
    (Instr.ldImm 10 0x9D).wf = true ∧ exec (.ldImm 10 0x9D) (readyWith 0x6A9D) = .next (nextOf (exec (.ldImm 10 0x9D) (readyWith 0x6A9D))) ∧
    (nextOf (exec (.ldImm 10 0x9D) (readyWith 0x6A9D))).runState = .running := ⟨rfl, rfl, rfl, rfl⟩
theorem witness_StepRunsFetchedInstruction_fault :
    (readyWith 0x00EE).phase = .s3 ∧ (readyWith 0x00EE).fetched = .ret ∧
    (nextOf (exec .ret (readyWith 0x00EE))).runState ≠ .running := by decide
theorem witness_PlacedWordIsFetched :
    (State.reset.jump 0xFFE).ms.pc.toNat ≤ 0xFFE ∧ (State.reset.jump 0).ms.pc.toNat ≤ 0xFFE ∧
    State.reset.ms.mem.Pairwise (fun c d => c.1 < d.1) := by decide
/-- With `witness_threadMoves`. -/
theorem witness_InstructionTickGating_s2 :
    (atPhase .s2 2).phase = .s2 ∧ (atPhase .s2 2).instrGateFires = true ∧ (atPhase .s2 1).instrGateFires = false := by decide
/-- With `witness_threadMoves`. -/
theorem witness_InstructionTickGating_s3 :
    (atPhase .s3 2).phase = .s3 ∧ ({ atPhase .s3 2 with pausedSeen := true } : State).mayExecute = false ∧
    ({ atPhase .s3 2 with wait := .waiting 0 } : State).mayExecute = false ∧ (atPhase .s3 2).mayExecute = true := by decide
theorem witness_FetchOutsideMemoryIsFatal :
    let s := (atPhase .s3 2).jump 0xFFF
    s.atTick [] ∧ ({ s with turns := [.thread] } : State).atTick [] ∧ s.pausedSeen = false ∧ s.wait = .idle ∧
    0xFFE < s.ms.pc.toNat :=
  ⟨⟨⟨rfl, .inr (.inl ⟨rfl, rfl⟩)⟩, rfl⟩, ⟨⟨rfl, .inl rfl⟩, rfl⟩, rfl, rfl, by decide⟩
theorem witness_FatalErrorsAreTheListedOnes :
    faultOf .ret State.reset = some (.stackUnderflow, .sp 0) ∧ faultOf .ret (withStack 1 0 0) = none ∧
    faultOf (.call 0) (withStack 16 0 0) = some (.stackOverflow, .sp 16) ∧ faultOf (.call 0) (withStack 15 0 0) = none ∧
    faultOf (.drw 0 0 2) (State.reset.setI 0xFFF) = some (.memoryOutOfRange, .addr 0x1000) ∧
    faultOf (.drw 0 0 1) (State.reset.setI 0xFFF) = none ∧ faultOf (.drw 0 0 0) (State.reset.setI 0xFFFF) = none ∧
    faultOf (.ldBVx 0) (State.reset.setI 0xFFE) = some (.memoryOutOfRange, .addr 0x1000) ∧
    faultOf (.ldMemVx 0) (State.reset.setI 0x1000) = some (.memoryOutOfRange, .addr 0x1000) ∧
    faultOf (.ldVxMem 15) (State.reset.setI 0xFF1) = some (.memoryOutOfRange, .addr 0x1000) ∧
    faultOf (.skp 1) (withV [(1, 0x10)]) = some (.keyIndexOutOfRange, .index 0x10) ∧
    faultOf (.sknp 1) (withV [(1, 0x0F)]) = none := by decide
theorem witness_OnlyListedWrites : ∃ t, exec (.ldMemVx 1) (State.reset.setI 0x300) = .next t := ⟨_, rfl⟩
theorem witness_UnrecognizedWordIsNoOp :
    decode 0x0123 = .unrecognized 0x0123 ∧ (readyWith 0x0123).ready [] ∧
    (readyWith 0x0123).fetched = .unrecognized (readyWith 0x0123).fetchWord :=
  ⟨by decide, ⟨⟨⟨rfl, .inr (.inl ⟨rfl, rfl⟩)⟩, rfl⟩, rfl, rfl, by decide⟩, by decide⟩
theorem witness_DrwTogglesTouchedCells :
    (0 : Nibble).toNat = 0 ∧ (State.reset.setI 0xFF1).ms.i.toNat + (15 : Nibble).toNat ≤ 0x1000 := by decide
theorem witness_DrawingTwiceRestores :
    (List.replicate 15 (0x80 : Byte)).length ≤ 15 ∧
    ∀ c ∈ spriteCells 60 30 0 [0xFF, 0x81], Framebuffer.blank.cell c.1 c.2 = false := by
  refine ⟨by decide, fun c _ => ?_⟩
  simp [Framebuffer.blank, Framebuffer.cell, Vector.get_eq_getElem]
theorem witness_RetPopsReturnAddress : 0 < (withStack 1 0 0).ms.sp.val ∧ 0 < (withStack 16 15 0).ms.sp.val := by decide
theorem witness_JpJumpsAndMarksSelfLoop :
    (0x200 : Addr).toNat = State.reset.ms.pc.toNat ∧ (0x201 : Addr).toNat ≠ State.reset.ms.pc.toNat := by decide
theorem witness_CallPushesReturnAddress : State.reset.ms.sp.val < 16 ∧ (withStack 15 0 0).ms.sp.val < 16 := by decide
theorem witness_CallThenRetReturns :
    let t := nextOf (exec (.call 0x300) (withStack 15 0 0))
    exec (.call 0x300) (withStack 15 0 0) = .next t ∧ (t.setV 1 9).ms.sp = t.ms.sp ∧ (t.setV 1 9).ms.stack = t.ms.stack :=
  ⟨rfl, rfl, rfl⟩
theorem witness_FlagAliasTable : (0 : Reg) ≠ vf ∧ (14 : Reg) ≠ vf := by decide
theorem witness_memoryOk : (State.reset.writeBytes 0x300 [1, 2]).memoryOk := by
  unfold State.memoryOk
  decide
theorem witness_BcdStoresThreeDigits :
    State.addrI (State.reset.setI 0xFFD) + 2 ≤ 0xFFF ∧ 0xFFF < State.addrI (State.reset.setI 0xFFE) + 2 := by decide
theorem witness_JpV0AddsOffset : 0xFFF ≤ (nextOf (exec (.jpV0 0xFFF) State.reset)).ms.pc.toNat := by decide
theorem witness_StoreRegsWritesBlock : State.addrI (State.reset.setI 0xFF0) + (15 : Reg).val ≤ 0xFFF := by decide
theorem witness_LoadRegsReadsBlock : State.addrI (State.reset.setI 0xFFF) + (0 : Reg).val ≤ 0xFFF := by decide
theorem witness_SkipOnKey : ((withV [(3, 15)]).getV 3).toNat = (15 : Key).val ∧ (State.reset.getV 3).toNat = (0 : Key).val := by
  decide
theorem witness_KeyDownResolvesWait :
    keyOf (atPoll [] (.waiting 3)).cfg.keymap 15 = some 15 ∧ (atPoll [] (.waiting 3)).wait = .waiting 3 ∧
    (atPoll [] .idle).wait = .idle := by decide
theorem witness_KeyUpNeverAffectsWait :
    keyOf State.reset.cfg.keymap 0 = some 0 ∧ keyOf State.reset.cfg.keymap 16 = none := by decide
theorem witness_LowestMatchingKeyWins :
    let km := (Config.defaultKeymap.set 4 77).set 9 77
    (km.get 4 = 77 ∧ ∀ j : Key, j.val < 4 → km.get j ≠ 77) ∧ ∀ j : Key, km.get j ≠ 88 := by decide
theorem witness_LowestMatchingKeyWins_held :
    keyOf charKeymap 'v' = some 15 ∧ keyOf charKeymap 'p' = none ∧
    (State.boot Config.default [] (heldKeymap charKeymap)).cfg.keymap = heldKeymap charKeymap := by decide
theorem witness_WaitHasTwoTransitions :
    (step (readyWith 0xF30A) = .next (after 0xF30A State.reset) ∧ (after 0xF30A State.reset).wait ≠ (readyWith 0xF30A).wait) ∧
    (step (atPoll [.keyDown 7] (.waiting 3)) = .next (nextOf (step (atPoll [.keyDown 7] (.waiting 3)))) ∧
      (nextOf (step (atPoll [.keyDown 7] (.waiting 3)))).wait ≠ (atPoll [.keyDown 7] (.waiting 3)).wait) := by
  refine ⟨⟨rfl, ?_⟩, rfl, ?_⟩ <;> decide
theorem witness_WaitBlocksInstructions :
    (atPoll [.keyDown 7] (.waiting 3)).wait = .waiting 3 ∧
    (∃ t, step (atPoll [.keyDown 7] (.waiting 3)) = .next t ∧ t.wait = .idle) ∧
    (∃ t, step { atPhase .s3 2 with wait := .waiting 3 } = .next t ∧ t.wait = .waiting 3) ∧
    ({ atPhase .s3 2 with wait := .waiting 3 } : State).threadMoves [] ∧
    ({ atPhase .s3 2 with wait := .waiting 3 } : State).phase = .s3 :=
  ⟨rfl, ⟨_, rfl, rfl⟩, ⟨_, rfl, rfl⟩, ⟨rfl, .inr (.inl ⟨rfl, rfl⟩)⟩, rfl⟩
/-- With `witness_threadMoves`. -/
theorem witness_StopCheckAndInstructionGate :
    State.reset.phase = .s1 ∧ (atPhase .s2 2).phase = .s2 ∧ (atPhase .s2 2).lastInstr ≤ (atPhase .s2 2).now ∧
    0 < 500 ∧ 0 < 60 := by decide
/-- With `witness_threadMoves`; a poll of a press, a release and a quit, and one of none. -/
theorem witness_TimerTick :
    let s := atPoll [.keyDown 1, .keyUp 1, .quit] (.waiting 3)
    let u := atPhase .s4 15
    s.threadMoves [] ∧ s.phase = .s4 ∧ s.lastTimer ≤ s.now ∧ s.lastTimer + s.cfg.pTimer ≤ s.now ∧ .quit ∈ s.hostQueue ∧
    .quit ∉ (atPhase .s4 16).hostQueue ∧ u.lastTimer ≤ u.now ∧ u.now < u.lastTimer + u.cfg.pTimer :=
  ⟨⟨rfl, .inr (.inl ⟨rfl, rfl⟩)⟩, by decide⟩
theorem witness_QuitDropsLaterEvents : HostEvent.quit ∉ [HostEvent.keyDown 1, HostEvent.keyUp 1] := by decide
/-- With `witness_threadMoves`. -/
theorem witness_FramebufferHandoff :
    (atPhase .s4 16).phase = .s4 ∧ (atPhase .s4 16).cfg.pTimer ≤ (atPhase .s4 16).now - (atPhase .s4 16).lastTimer ∧
    ∃ t, step (atPhase .s4 16) = .next t ∧ t.fbOut ≠ (atPhase .s4 16).fbOut := by
  refine ⟨by decide, by decide, _, rfl, ?_⟩
  decide
theorem witness_PublishAppendsAndCopies :
    (selfLoop.ms.endloop = true ∧ ∃ m, selfLoop.snap.log.getLast? = some m ∧ m.text = m.text) ∧
    State.reset.ms.endloop = false ∧ ∀ m, State.reset.snap.log.getLast? = some m → m.text ≠ "" := by
  refine ⟨⟨by decide, { pc := 0x200, op := 0x1200 }, by decide, rfl⟩, rfl, fun m h => ?_⟩
  cases h
theorem witness_TraceLogIsBoundedFifo :
    (readyWith 0x6A9D).snap.log.length ≤ (readyWith 0x6A9D).cfg.traceCap ∧
    step (readyWith 0x6A9D) = .next (after 0x6A9D State.reset) := ⟨by decide, rfl⟩
theorem witness_ObserverOperations :
    (observing (.setPause true)).turns = .observer (.setPause true) :: [] ∧ (observing .stop).turns = .observer .stop :: [] ∧
    (observing .readSnapshot).turns = .observer .readSnapshot :: [] ∧ (observing .stop).stopPending = false ∧
    ({ observing .stop with runState := .stopped .hostQuit } : State).runState ≠ .running := by decide
theorem witness_ObserverOperations_blocked :
    (blocked .s1 0).turns = .observer .readSnapshot :: [] ∧ (blocked .s1 0).stopPending = true ∧
    (blocked .s1 0).runState = .running ∧ ∃ t, step (blocked .s1 0) = .next t := ⟨rfl, rfl, rfl, _, rfl⟩
/-- With `witness_threadMoves`. -/
theorem witness_TurnsOfThreadHostAndClock :
    ({ stopped with turns := [.thread] } : State).turns = .thread :: [] ∧ stopped.runState ≠ .running ∧
    ({ State.reset with turns := [.host (.keyDown 1)] } : State).turns = .host (.keyDown 1) :: [] ∧
    ({ State.reset with turns := [.elapse 5] } : State).turns = .elapse 5 :: [] := by decide
theorem witness_EndedLoopStaysEnded :
    stopped.runState ≠ .running ∧ stopped.turns = [] ∧
    ∃ t, step { stopped with turns := [.observer .readSnapshot] } = .next t := ⟨by decide, rfl, _, rfl⟩
theorem witness_KeymapIsImmutable_start :
    ∃ s, State.start Config.default true [0x12, 0x00] charKeymap = .started s := ⟨_, rfl⟩
/-- A step at S1, one at S4 whose gate does not fire, and a host's turn at S4 although the gate is due. -/
theorem witness_KeymapIsImmutable :
    (State.reset.phase ≠ .s4 ∧ ∃ t, step State.reset = .next t) ∧
    (atPhase .s4 15).now - (atPhase .s4 15).lastTimer < (atPhase .s4 15).cfg.pTimer ∧
    ∀ rest, ¬ ({ atPhase .s4 16 with turns := [.host .quit] } : State).threadMoves rest := by
  refine ⟨⟨by decide, _, rfl⟩, by decide, ?_⟩
  rintro rest ⟨-, h | ⟨h, -⟩ | ⟨h, -⟩⟩ <;> cases h
theorem witness_StartLoadsImage :
    (List.replicate 0xE00 (1 : Byte)).length ≤ 0xE00 ∧ 0xE00 < (List.replicate 0xE01 (1 : Byte)).length := by
  rw [List.length_replicate, List.length_replicate]
  decide
theorem witness_selfLoop_inv : selfLoop.Inv ∧ selfLoop.ms.endloop = true := by
  refine ⟨⟨?_, ?_, ?_, ?_, fun _ => ⟨?_, ⟨0x200, ?_, ?_⟩, .inr ?_⟩⟩, ?_⟩
  · unfold State.memoryOk; decide
  · unfold State.logOk; decide
  · unfold State.pcOk; decide
  · unfold State.timesOk; decide
  all_goals decide
theorem witness_StepKeepsInvariant : ∃ t, step selfLoop = .next t := ⟨_, rfl⟩

end Sys2Proof.Tests
end

section
/-! PROOFS. O43: the two transitions of the key-wait register (10_state.md R31, R32). -/

namespace Sys2Proof.Machine

/-! ### The wait under the operations of one instruction -/

@[simp] theorem State.writeThenClearVf_wait (s : State) (x : Reg) (b : Byte) :
    (s.writeThenClearVf x b).wait = s.wait := rfl

@[simp] theorem State.flagThenWrite_wait (s : State) (flag : Byte) (x : Reg) (result : State → Byte) :
    (s.flagThenWrite flag x result).wait = s.wait := rfl

@[simp] theorem State.drawSprite_wait (s : State) (x y : Reg) (n : Nibble) : (s.drawSprite x y n).wait = s.wait := rfl

@[simp] theorem State.raiseMemory_wait (s : State) (n : Nat) (op : Word) : (s.raiseMemory n op).wait = s.wait := rfl

@[simp] theorem State.raiseKey_wait (s : State) (x : Reg) (op : Word) : (s.raiseKey x op).wait = s.wait := rfl

/-- FX0A starts a wait whatever the wait was: completing, it needs no check (R220). -/
theorem exec_ldVxK (x : Reg) (s : State) : exec (.ldVxK x) s = .next (s.advance.startWait x) := rfl

/-- An instruction leaves the wait alone, or it is FX0A. -/
theorem exec_wait {i : Instr} {s t : State} (h : exec i s = .next t) :
    t.wait = s.wait ∨ ∃ x, i = .ldVxK x ∧ t.wait = .waiting x := by
  cases i with
  | ldVxK x =>
    cases h
    exact .inr ⟨x, rfl, rfl⟩
  | ret | call | drw | ldBVx | ldMemVx | ldVxMem | skp | sknp =>
    simp only [exec, execRet, execCall, execDrw, execLdBVx, execLdMemVx, execLdVxMem, execSkp, execSknp] at h
    split at h <;> cases h <;> exact .inl (by simp)
  | _ =>
    cases h
    exact .inl (by simp)

/-! ### The wait under the loop's operations -/

@[simp] theorem State.retire_wait (l : TraceLine) (t : State) : (t.retire l).wait = t.wait := by
  rw [State.retire_frame]

@[simp] theorem State.observe_wait (s : State) (op : ObserverOp) : (s.observe op).wait = s.wait := by
  rw [State.observe_frame]

@[simp] theorem State.setPause_wait (s : State) (b : Bool) : (s.setPause b).wait = s.wait :=
  s.observe_wait (.setPause b)

@[simp] theorem State.keyUp_wait (s : State) (h : HostKey) : (s.keyUp h).wait = s.wait := by
  rw [State.keyUp_frame]

@[simp] theorem State.subStep1_wait (s : State) : s.subStep1.wait = s.wait := by
  simp only [State.subStep1]
  split <;> rfl

@[simp] theorem State.subStep2_wait (s : State) : s.subStep2.wait = s.wait := by
  simp only [State.subStep2]
  split <;> rfl

/-- A resolved wait is idle, and an idle one stays so (R222). -/
@[simp] theorem State.resolveWait_wait (s : State) (k : Key) : (s.resolveWait k).wait = .idle := by
  cases hw : s.wait with
  | idle => rw [State.resolveWait_idle s k hw, hw]
  | waiting r => rw [State.resolveWait_waiting s k r hw]

/-- After the press of a mapped key no wait is pending. -/
theorem State.keyDown_wait {s : State} {h : HostKey} {k : Key} (hk : keyOf s.cfg.keymap h = some k) :
    (s.keyDown h).wait = .idle := by
  simp only [State.keyDown, hk, State.resolveWait_wait]

/-- S4 leaves the wait alone, or a matching key press of its poll resolves it (R222). -/
theorem State.subStep4_wait (s : State) :
    s.subStep4.wait = s.wait ∨
      ∃ r h k, s.wait = .waiting r ∧ s.subStep4.wait = .idle ∧ .keyDown h ∈ s.hostQueue ∧
        keyOf s.cfg.keymap h = some k := by
  rw [State.subStep4_eq]
  split
  · have hw : s.beforePoll.wait = s.wait := by rw [State.beforePoll_frame]
    have hc : s.beforePoll.cfg = s.cfg := by rw [State.beforePoll_frame]
    obtain ⟨hsame, -⟩ | ⟨r, h, k, hr, hidle, hmem, hk, -⟩ := s.beforePoll.pollEvents_wait s.hostQueue
    · exact .inl (hsame.trans hw)
    · exact .inr ⟨r, h, k, hw ▸ hr, hidle, hmem, hc ▸ hk⟩
  · exact .inl rfl

/-! ### The wait under one step -/

/-- How one sub-step of the thread changes the wait: only at S3 by FX0A, from idle, and only at S4 by a matching key press. -/
theorem State.threadStep_wait {s t : State} (h : s.threadStep = .next t) (hne : t.wait ≠ s.wait) :
    (∃ x, s.wait = .idle ∧ t.wait = .waiting x ∧ s.phase = .s3 ∧ s.fetched = .ldVxK x) ∨
    (∃ r h k, s.wait = .waiting r ∧ t.wait = .idle ∧ s.phase = .s4 ∧ .keyDown h ∈ s.hostQueue ∧
      keyOf s.cfg.keymap h = some k) := by
  obtain ⟨-, rfl⟩ | ⟨-, rfl⟩ | ⟨hp, rfl⟩ | ⟨-, -, rfl⟩ | ⟨-, -, -, -, rfl⟩ | ⟨hp, -, hidle, -, u, hu, rfl⟩ :=
    State.threadStep_cases h
  · exact absurd s.subStep1_wait hne
  · exact absurd s.subStep2_wait hne
  · obtain hsame | ⟨r, h, k, hr, ht, hmem, hk⟩ := s.subStep4_wait
    · exact absurd hsame hne
    · exact .inr ⟨r, h, k, hr, ht, hp, hmem, hk⟩
  · exact absurd rfl hne
  · exact absurd rfl hne
  · rw [State.retire_wait] at hne ⊢
    obtain hsame | ⟨x, hi, hx⟩ := exec_wait hu
    · exact absurd hsame hne
    · exact .inl ⟨x, hidle, hx, hp, hi⟩

/-- Only a sub-step of the running thread changes the wait: no other agent's turn does. -/
theorem step_wait_ne {s t : State} (h : step s = .next t) (hne : t.wait ≠ s.wait) :
    ∃ rest, s.threadMoves rest ∧ { s with turns := rest }.threadStep = .next t := by
  obtain ⟨op, rest, -, -, rfl⟩ | ⟨e, rest, -, rfl⟩ | ⟨n, rest, -, rfl⟩ | ⟨rest, -, -, rfl⟩ | hthread := step_cases h
  · exact absurd (State.observe_wait _ op) hne
  · exact absurd rfl hne
  · exact absurd rfl hne
  · exact absurd rfl hne
  · exact hthread

/-- Settles O43: a change of the wait is a sub-step of the thread, which makes one of the two transitions. -/
theorem waitHasTwoTransitions : Obligations.WaitHasTwoTransitions := by
  refine ⟨fun w => ?_, fun s t h hne => ?_, fun s x => ?_, fun s h k => State.keyDown_wait, fun s h b => ?_⟩
  · cases w with
    | idle => exact .inl rfl
    | waiting r => exact .inr ⟨r, rfl⟩
  · obtain ⟨rest, -, ht⟩ := step_wait_ne h hne
    exact (State.threadStep_wait ht hne :)
  · exact ⟨_, exec_ldVxK x s, s.advance.startWait_wait x⟩
  · exact ⟨s.keyUp_wait h, s.setPause_wait b⟩

end Sys2Proof.Machine
end

section
/-! PROOFS. O14: 00E0 clears the framebuffer (41_display.md R120). -/

namespace Sys2Proof.Machine

/-- 00E0 needs no check and always completes (R120). -/
theorem exec_cls (s : State) : exec .cls s = .next (s.advance.setFb Framebuffer.blank) := rfl

/-- Replacing the framebuffer after the advance touches nothing but the framebuffer and `PC`. -/
theorem State.advance_setFb_frame (s : State) (g : Framebuffer) :
    s.advance.setFb g =
      { s with fb := (s.advance.setFb g).fb, ms := { s.ms with pc := (s.advance.setFb g).ms.pc } } := rfl

/-- Settles O14: 00E0 completes in the advanced state with the blank framebuffer, whose every cell is clear. -/
theorem clsClearsEveryCell : Obligations.ClsClearsEveryCell := by
  refine ⟨by decide, fun s => ⟨s.advance.setFb Framebuffer.blank, exec_cls s, ?pc, ?cells, ?regs, ?frame, ?memory⟩⟩
  case pc => rw [State.setFb_ms, State.advance_ms_pc]
  case cells =>
    intro x y
    rw [State.setFb_fb, Framebuffer.cell_blank]
  case regs =>
    intro r
    rw [State.getV_setFb, State.getV_advance]
  case frame => exact s.advance_setFb_frame Framebuffer.blank
  case memory =>
    intro a
    rw [State.readByte_setFb, State.readByte_advance]

end Sys2Proof.Machine
end

section
/-! PROOFS. O22, O23: the conditional skips on an immediate and on a register (42_control_flow.md R145 to R148). -/

namespace Sys2Proof.Machine

/-! ### The pre-increment followed by a skip -/

/-- A skip after the pre-increment passes over exactly the 2 bytes of the next instruction (R103, R311). -/
theorem State.advance_skipIf_pc (s : State) (c : Bool) :
    (s.advance.skipIf c).ms.pc = if c then s.ms.pc + 4 else s.ms.pc + 2 := by
  rw [State.skipIf_eq, State.jump_ms_pc, State.advance_ms_pc, BitVec.add_assoc]
  cases c <;> rfl

theorem State.onlyPc_advance_skipIf (s : State) (c : Bool) : OnlyPc s (s.advance.skipIf c) := by
  rw [State.skipIf_eq]
  exact ⟨rfl, fun _ => rfl⟩

/-- What every instruction that skips on a condition does. -/
theorem exec_skip_spec {i : Instr} {s : State} {c : Bool} (h : exec i s = .next (s.advance.skipIf c)) :
    ∃ t, exec i s = .next t ∧ OnlyPc s t ∧ t.ms.pc = if c then s.ms.pc + 4 else s.ms.pc + 2 :=
  ⟨s.advance.skipIf c, h, s.onlyPc_advance_skipIf c, s.advance_skipIf_pc c⟩

/-- An instruction that skips on equality of two bytes. -/
theorem exec_skipEq_spec {i : Instr} {s : State} {a b : Byte} (h : exec i s = .next (s.advance.skipIf (a == b))) :
    ∃ t, exec i s = .next t ∧ OnlyPc s t ∧ t.ms.pc = if a = b then s.ms.pc + 4 else s.ms.pc + 2 := by
  simpa only [beq_iff_eq] using exec_skip_spec h

/-- An instruction that skips on difference of two bytes. -/
theorem exec_skipNe_spec {i : Instr} {s : State} {a b : Byte} (h : exec i s = .next (s.advance.skipIf (a != b))) :
    ∃ t, exec i s = .next t ∧ OnlyPc s t ∧ t.ms.pc = if a = b then s.ms.pc + 2 else s.ms.pc + 4 := by
  simpa only [bne_iff_ne, ne_eq, ite_not] using exec_skip_spec h

/-! ### The four instructions -/

theorem exec_seImm (x : Reg) (rr : Byte) (s : State) :
    exec (.seImm x rr) s = .next (s.advance.skipIf (s.getV x == rr)) := rfl

theorem exec_sneImm (x : Reg) (rr : Byte) (s : State) :
    exec (.sneImm x rr) s = .next (s.advance.skipIf (s.getV x != rr)) := rfl

theorem exec_seReg (x y : Reg) (s : State) :
    exec (.seReg x y) s = .next (s.advance.skipIf (s.getV x == s.getV y)) := rfl

theorem exec_sneReg (x y : Reg) (s : State) :
    exec (.sneReg x y) s = .next (s.advance.skipIf (s.getV x != s.getV y)) := rfl

/-- Settles O22: 3XRR skips on equality of `V[X]` and RR, 4XRR on their difference. -/
theorem skipOnImmediate : Obligations.SkipOnImmediate := fun x rr s =>
  ⟨wordXK_toNat 0x3 x rr, wordXK_toNat 0x4 x rr, exec_skipEq_spec (exec_seImm x rr s),
    exec_skipNe_spec (exec_sneImm x rr s)⟩

/-- Settles O23: 5XY0 skips on equality of `V[X]` and `V[Y]`, 9XY0 on their difference. -/
theorem skipOnRegister : Obligations.SkipOnRegister := fun x y s =>
  ⟨wordXYN_toNat 0x5 x y 0x0, wordXYN_toNat 0x9 x y 0x0, exec_skipEq_spec (exec_seReg x y s),
    exec_skipNe_spec (exec_sneReg x y s)⟩

end Sys2Proof.Machine
end

section
/-! PROOFS. O24 to O26: loads, the immediate add and the bitwise rows (43_register_alu.md R160 to R165). -/

namespace Sys2Proof.Machine

/-! ### The pre-increment followed by a register write -/

theorem State.onlyPcRegs_advance_setV (s : State) (x : Reg) (b : Byte) : OnlyPcRegs s (s.advance.setV x b) :=
  ⟨rfl, fun a => by rw [State.readByte_setV, State.readByte_advance]⟩

theorem State.onlyPcRegs_advance_writeThenClearVf (s : State) (x : Reg) (b : Byte) :
    OnlyPcRegs s (s.advance.writeThenClearVf x b) :=
  ⟨rfl, fun a => by rw [State.writeThenClearVf, State.readByte_setV, State.readByte_setV, State.readByte_advance]⟩

/-- What every instruction that writes one register and no flag does. -/
theorem exec_write_spec {i : Instr} {s : State} {x : Reg} {b : Byte} (h : exec i s = .next (s.advance.setV x b)) :
    ∃ t, exec i s = .next t ∧ t.ms.pc = s.ms.pc + 2 ∧ (∀ r, t.getV r = if r = x then b else s.getV r) ∧
      OnlyPcRegs s t := by
  refine ⟨s.advance.setV x b, h, ?pc, fun r => ?regs, s.onlyPcRegs_advance_setV x b⟩
  case pc => rw [State.setV_ms_pc, State.advance_ms_pc]
  case regs => rw [State.getV_setV, State.getV_advance]

/-- What every bitwise instruction does: VF is cleared last, so for X = 0xF the result is lost (C2). -/
theorem exec_bitwise_spec {i : Instr} {s : State} {x : Reg} {b : Byte}
    (h : exec i s = .next (s.advance.writeThenClearVf x b)) :
    ∃ t, exec i s = .next t ∧ t.ms.pc = s.ms.pc + 2 ∧
      (∀ r, t.getV r = if r = vf then 0 else if r = x then b else s.getV r) ∧ OnlyPcRegs s t := by
  refine ⟨s.advance.writeThenClearVf x b, h, ?pc, fun r => ?regs, s.onlyPcRegs_advance_writeThenClearVf x b⟩
  case pc => rw [State.writeThenClearVf, State.setV_ms_pc, State.setV_ms_pc, State.advance_ms_pc]
  case regs => rw [State.getV_writeThenClearVf, State.getV_advance]

/-! ### The six instructions -/

/-- The words of the 8XYn rows, with the row's nibble beside the major one as the opcode map writes them (R74). -/
theorem wordXYN_8_toNat (x y : Reg) (n : Nibble) :
    (wordXYN 0x8 x y n).toNat = 0x8000 + n.toNat + x.val * 0x100 + y.val * 0x10 := by
  rw [wordXYN_toNat, show (0x8 : Nibble).toNat = 0x8 from rfl]
  omega

theorem exec_ldImm (x : Reg) (rr : Byte) (s : State) : exec (.ldImm x rr) s = .next (s.advance.setV x rr) := rfl

theorem exec_addImm (x : Reg) (rr : Byte) (s : State) :
    exec (.addImm x rr) s = .next (s.advance.setV x (s.getV x + rr)) := rfl

theorem exec_ldReg (x y : Reg) (s : State) : exec (.ldReg x y) s = .next (s.advance.setV x (s.getV y)) := rfl

theorem exec_orReg (x y : Reg) (s : State) :
    exec (.orReg x y) s = .next (s.advance.writeThenClearVf x (s.getV x ||| s.getV y)) := rfl

theorem exec_andReg (x y : Reg) (s : State) :
    exec (.andReg x y) s = .next (s.advance.writeThenClearVf x (s.getV x &&& s.getV y)) := rfl

theorem exec_xorReg (x y : Reg) (s : State) :
    exec (.xorReg x y) s = .next (s.advance.writeThenClearVf x (s.getV x ^^^ s.getV y)) := rfl

/-- Settles O24: 6XRR and 8XY0 write their operand into `V[X]`, and no other register. -/
theorem loadsCopyOperand : Obligations.LoadsCopyOperand := fun x y rr s =>
  ⟨wordXK_toNat 0x6 x rr, wordXYN_toNat 0x8 x y 0x0, exec_write_spec (exec_ldImm x rr s),
    exec_write_spec (exec_ldReg x y s)⟩

/-- Settles O25: 7XRR writes the byte sum, which is the sum modulo 256, and no other register. -/
theorem addImmWrapsWithoutFlag : Obligations.AddImmWrapsWithoutFlag := by
  intro x rr s
  obtain ⟨t, ht, hpc, hregs, hframe⟩ := exec_write_spec (exec_addImm x rr s)
  refine ⟨wordXK_toNat 0x7 x rr, t, ht, hpc, ?sum, fun r hr => ?others, hframe⟩
  case sum => rw [hregs, if_pos rfl, BitVec.toNat_add]
  case others => rw [hregs, if_neg hr]

/-- Settles O26: 8XY1, 8XY2 and 8XY3 write the bitwise result and clear VF after it. -/
theorem bitwiseClearsVf : Obligations.BitwiseClearsVf := fun x y s =>
  ⟨wordXYN_8_toNat x y 0x1, wordXYN_8_toNat x y 0x2, wordXYN_8_toNat x y 0x3, exec_bitwise_spec (exec_orReg x y s),
    exec_bitwise_spec (exec_andReg x y s), exec_bitwise_spec (exec_xorReg x y s)⟩

end Sys2Proof.Machine
end

section
/-! PROOFS. O32: the two instructions that load `I` (44_index_memory.md R190, R192). -/

namespace Sys2Proof.Machine

/-! ### The pre-increment followed by a write of `I` -/

theorem State.onlyPcIndex_advance_setI (s : State) (w : Word) : OnlyPcIndex s (s.advance.setI w) :=
  ⟨rfl, fun a => by rw [State.readByte_setI, State.readByte_advance]⟩

/-- What every instruction that writes `I` and nothing else does. -/
theorem exec_index_spec {i : Instr} {s : State} {w : Word} (h : exec i s = .next (s.advance.setI w)) :
    ∃ t, exec i s = .next t ∧ t.ms.pc = s.ms.pc + 2 ∧ t.ms.i = w ∧ (∀ r, t.getV r = s.getV r) ∧ OnlyPcIndex s t := by
  refine ⟨s.advance.setI w, h, ?pc, s.advance.setI_ms_i w, fun r => ?regs, s.onlyPcIndex_advance_setI w⟩
  case pc => rw [State.setI_ms_pc, State.advance_ms_pc]
  case regs => rw [State.getV_setI, State.getV_advance]

/-! ### The two values of `I` -/

theorem addrWord_toNat (nnn : Addr) : (addrWord nnn).toNat = nnn.toNat :=
  BitVec.toNat_setWidth_of_le (by decide)

/-- The glyph address does not wrap: it is at most 255 × 5 (R192). -/
theorem glyphAddr_toNat (b : Byte) : (b.setWidth 16 * 5#16).toNat = 5 * b.toNat := by
  have hb : b.toNat < 256 := b.isLt
  rw [BitVec.toNat_mul, BitVec.toNat_setWidth_of_le (by decide), BitVec.toNat_ofNat]
  omega

/-- The words of the FXkk rows, with the row's byte beside the major nibble as the opcode map writes them (R74). -/
theorem wordXK_F_toNat (x : Reg) (kk : Byte) : (wordXK 0xF x kk).toNat = 0xF000 + kk.toNat + x.val * 0x100 := by
  rw [wordXK_toNat, show (0xF : Nibble).toNat = 0xF from rfl]
  omega

/-! ### The two instructions -/

theorem exec_ldI (nnn : Addr) (s : State) : exec (.ldI nnn) s = .next (s.advance.setI (addrWord nnn)) := rfl

theorem exec_ldFVx (x : Reg) (s : State) :
    exec (.ldFVx x) s = .next (s.advance.setI ((s.getV x).setWidth 16 * 5)) := rfl

/-- ANNN: `I` is the address field, hence an address of memory (R190). -/
theorem exec_ldI_spec (nnn : Addr) (s : State) :
    ∃ t, exec (.ldI nnn) s = .next t ∧ t.ms.pc = s.ms.pc + 2 ∧ t.ms.i.toNat = nnn.toNat ∧ t.ms.i.toNat ≤ 0xFFF ∧
      (∀ r, t.getV r = s.getV r) ∧ OnlyPcIndex s t := by
  obtain ⟨t, ht, hpc, hi, hregs, hframe⟩ := exec_index_spec (exec_ldI nnn s)
  have hn : t.ms.i.toNat = nnn.toNat := by rw [hi, addrWord_toNat]
  exact ⟨t, ht, hpc, hn, hn ▸ Nat.le_of_lt_succ nnn.isLt, hregs, hframe⟩

/-- FX29: `I` is the address of the glyph of the whole byte `V[X]` (R192). -/
theorem exec_ldFVx_spec (x : Reg) (s : State) :
    ∃ t, exec (.ldFVx x) s = .next t ∧ t.ms.pc = s.ms.pc + 2 ∧ t.ms.i.toNat = 5 * (s.getV x).toNat ∧
      (∀ r, t.getV r = s.getV r) ∧ OnlyPcIndex s t := by
  obtain ⟨t, ht, hpc, hi, hregs, hframe⟩ := exec_index_spec (exec_ldFVx x s)
  exact ⟨t, ht, hpc, hi ▸ glyphAddr_toNat (s.getV x), hregs, hframe⟩

/-- Settles O32: ANNN and FX29 complete in the advanced state with `I` replaced by an address that does not wrap. -/
theorem indexLoads : Obligations.IndexLoads := fun x nnn s =>
  ⟨wordA_toNat 0xA nnn, wordXK_F_toNat x 0x29, exec_ldI_spec nnn s, exec_ldFVx_spec x s⟩

end Sys2Proof.Machine
end

section
/-! PROOFS. O38, O39: the timer instructions and the start of a key wait (45_timers_keys.md R212 to R214, R220). -/

namespace Sys2Proof.Machine

/-! ### The pre-increment followed by a timer write -/

theorem State.advance_setDt_frame (s : State) (b : Byte) :
    s.advance.setDt b =
      { s with ms := { s.ms with pc := (s.advance.setDt b).ms.pc, dt := (s.advance.setDt b).ms.dt } } := rfl

theorem State.advance_setSt_frame (s : State) (b : Byte) :
    s.advance.setSt b =
      { s with ms := { s.ms with pc := (s.advance.setSt b).ms.pc, st := (s.advance.setSt b).ms.st } } := rfl

/-! ### The three timer instructions -/

theorem exec_ldVxDt (x : Reg) (s : State) : exec (.ldVxDt x) s = .next (s.advance.setV x s.ms.dt) := rfl

theorem exec_ldDtVx (x : Reg) (s : State) : exec (.ldDtVx x) s = .next (s.advance.setDt (s.getV x)) := rfl

theorem exec_ldStVx (x : Reg) (s : State) : exec (.ldStVx x) s = .next (s.advance.setSt (s.getV x)) := rfl

/-- FX15: `DT` is `V[X]` (R213). -/
theorem exec_ldDtVx_spec (x : Reg) (s : State) :
    ∃ t, exec (.ldDtVx x) s = .next t ∧ t.ms.pc = s.ms.pc + 2 ∧ t.ms.dt = s.getV x ∧
      t = { s with ms := { s.ms with pc := t.ms.pc, dt := t.ms.dt } } ∧ SameMemory s t := by
  refine ⟨s.advance.setDt (s.getV x), exec_ldDtVx x s, ?pc, State.setDt_ms_dt _ _, s.advance_setDt_frame _,
    fun a => ?memory⟩
  case pc => rw [State.setDt_ms_pc, State.advance_ms_pc]
  case memory => rw [State.readByte_setDt, State.readByte_advance]

/-- FX18: `ST` is `V[X]` (R214). -/
theorem exec_ldStVx_spec (x : Reg) (s : State) :
    ∃ t, exec (.ldStVx x) s = .next t ∧ t.ms.pc = s.ms.pc + 2 ∧ t.ms.st = s.getV x ∧
      t = { s with ms := { s.ms with pc := t.ms.pc, st := t.ms.st } } ∧ SameMemory s t := by
  refine ⟨s.advance.setSt (s.getV x), exec_ldStVx x s, ?pc, State.setSt_ms_st _ _, s.advance_setSt_frame _,
    fun a => ?memory⟩
  case pc => rw [State.setSt_ms_pc, State.advance_ms_pc]
  case memory => rw [State.readByte_setSt, State.readByte_advance]

/-! ### No instruction reads `ST` (R27)

The operations that branch on the state commute with a write of `ST`; every other one does so by definition. -/

theorem State.setSt_skipIf (s : State) (b : Byte) (c : Bool) : (s.setSt b).skipIf c = (s.skipIf c).setSt b := by
  cases c <;> rfl

theorem State.setSt_push (s : State) (b : Byte) (w : Word) : (s.setSt b).push w = (s.push w).setSt b := by
  simp only [State.push, apply_dite (State.setSt · b)]
  rfl

theorem State.setSt_popPc (s : State) (b : Byte) : (s.setSt b).popPc = s.popPc.setSt b := by
  simp only [State.popPc, apply_dite (State.setSt · b)]
  rfl

/-- An instruction with a check, whose two outcomes carry a change of the state through, carries it through. -/
theorem ite_next_eq_mapNext (f : State → State) (c : Prop) [Decidable c] {t u t' u' : State} (ht : t' = f t)
    (hu : u' = f u) :
    (if c then .next t' else .next u' : Outcome) = mapNext f (if c then .next t else .next u) := by
  rw [ht, hu, apply_ite (mapNext f)]
  rfl

/-- An instruction other than FX18 neither reads nor writes `ST`: a change of `ST` before it is a change after it. -/
theorem exec_setSt {i : Instr} (h : ∀ x, i ≠ .ldStVx x) (s : State) (b : Byte) :
    exec i (s.setSt b) = mapNext (·.setSt b) (exec i s) := by
  cases i with
  | ldStVx x => exact absurd rfl (h x)
  | ret => exact ite_next_eq_mapNext (·.setSt b) _ rfl (s.advance.setSt_popPc b)
  | call nnn =>
    exact ite_next_eq_mapNext (·.setSt b) _ rfl (congrArg (·.jump (addrWord nnn)) (s.advance.setSt_push b _))
  | seImm | sneImm | seReg | sneReg => exact congrArg Host.Outcome.next (s.advance.setSt_skipIf b _)
  | skp | sknp => exact ite_next_eq_mapNext (·.setSt b) _ rfl (s.advance.setSt_skipIf b _)
  | drw | ldBVx | ldMemVx | ldVxMem => exact ite_next_eq_mapNext (·.setSt b) _ rfl rfl
  | _ => rfl

/-- The mnemonic LD_ST_VX is that of FX18 alone (R80). -/
theorem mnemonic_eq_ldStVx_iff (i : Instr) : i.mnemonic = "LD_ST_VX" ↔ ∃ x, i = .ldStVx x := by
  constructor
  · intro h
    cases i with
    | ldStVx x => exact ⟨x, rfl⟩
    | _ => simp [Instr.mnemonic] at h
  · rintro ⟨x, rfl⟩
    rfl

/-- No instruction reads `ST`: FX18 overwrites it, every other one leaves it as it was. -/
theorem exec_ignores_st (i : Instr) (s : State) (b : Byte) :
    exec i (s.setSt b) =
      mapNext (fun t => t.setSt (if i.mnemonic = "LD_ST_VX" then t.ms.st else b)) (exec i s) := by
  by_cases h : i.mnemonic = "LD_ST_VX"
  · obtain ⟨x, rfl⟩ := (mnemonic_eq_ldStVx_iff i).mp h
    rfl
  · simp only [if_neg h]
    exact exec_setSt (fun x hx => h ((mnemonic_eq_ldStVx_iff i).mpr ⟨x, hx⟩)) s b

/-- Settles O38: FX07 is a register write of `DT`, FX15 and FX18 are timer writes of `V[X]`, and a change of `ST` before an
instruction reaches nothing else. -/
theorem timerAccess : Obligations.TimerAccess := fun x s =>
  ⟨wordXK_F_toNat x 0x07, exec_write_spec (exec_ldVxDt x s), wordXK_F_toNat x 0x15, wordXK_F_toNat x 0x18,
    exec_ldDtVx_spec x s, exec_ldStVx_spec x s, fun i b => exec_ignores_st i s b⟩

/-! ### The start of a key wait -/

theorem State.advance_startWait_frame (s : State) (x : Reg) :
    s.advance.startWait x =
      { s with wait := (s.advance.startWait x).wait, ms := { s.ms with pc := (s.advance.startWait x).ms.pc } } := rfl

/-- Settles O39: FX0A completes in the advanced state with the wait started, its registers untouched. -/
theorem ldVxKStartsWait : Obligations.LdVxKStartsWait := by
  intro x s
  refine ⟨wordXK_F_toNat x 0x0A, s.advance.startWait x, exec_ldVxK x s, ?pc, s.advance.startWait_wait x,
    fun r => ?regs, s.advance_startWait_frame x, fun a => ?memory⟩
  case pc => rw [State.startWait_ms, State.advance_ms_pc]
  case regs => rw [State.getV_startWait, State.getV_advance]
  case memory => rw [State.readByte_startWait, State.readByte_advance]

end Sys2Proof.Machine
end

section
/-! PROOFS. O1 to O5: the decoder and the encoder (30_encoding.md). -/

namespace Sys2Proof

/-! ### The word of a listed instruction decodes to it -/

/-- The instruction is one of the 34 of the opcode map. -/
def Instr.listed : Instr → Bool
  | .unrecognized _ => false
  | _ => true

/-- Format A: the major alone tells the instruction. -/
theorem decode_wordA (nnn : Addr) :
    decode (wordA 0x1 nnn) = .jp nnn ∧ decode (wordA 0x2 nnn) = .call nnn ∧ decode (wordA 0xA nnn) = .ldI nnn ∧
      decode (wordA 0xB nnn) = .jpV0 nnn := by
  simp [decode, fieldMajor_wordA, fieldNNN_wordA]

/-- The 0x8 major: the function nibble tells the instruction. -/
theorem decode_wordXYN_alu (x y : Reg) (n : Nibble) : decode (wordXYN 0x8 x y n) = decodeAlu (wordXYN 0x8 x y n) := by
  simp [decode, fieldMajor_wordXYN]

/-- The 0xE major: the function byte tells the instruction. -/
theorem decode_wordXK_key (x : Reg) (kk : Byte) : decode (wordXK 0xE x kk) = decodeKey (wordXK 0xE x kk) := by
  simp [decode, fieldMajor_wordXK]

/-- The 0xF major: the function byte tells the instruction. -/
theorem decode_wordXK_misc (x : Reg) (kk : Byte) : decode (wordXK 0xF x kk) = decodeMisc (wordXK 0xF x kk) := by
  simp [decode, fieldMajor_wordXK]

/-- Decoding the word of a listed instruction gives it back (R75). -/
theorem decode_encode {i : Instr} (h : i.listed = true) : decode (encode i) = i := by
  cases i with
  | cls | ret => decide
  | jp nnn | call nnn | ldI nnn | jpV0 nnn => simp only [encode, decode_wordA]
  | seImm | sneImm | ldImm | addImm | rnd => simp [encode, decode, fieldMajor_wordXK, fieldX_wordXK, fieldKK_wordXK]
  | seReg | sneReg | drw =>
    simp [encode, decode, fieldMajor_wordXYN, fieldX_wordXYN, fieldY_wordXYN, fieldN_wordXYN]
  | ldReg | orReg | andReg | xorReg | addReg | sub | shr | subn | shl =>
    rw [encode, decode_wordXYN_alu]
    simp [decodeAlu, fieldX_wordXYN, fieldY_wordXYN, fieldN_wordXYN]
  | skp | sknp =>
    rw [encode, decode_wordXK_key]
    simp [decodeKey, fieldX_wordXK, fieldKK_wordXK]
  | ldVxDt | ldVxK | ldDtVx | ldStVx | addIVx | ldFVx | ldBVx | ldMemVx | ldVxMem =>
    rw [encode, decode_wordXK_misc]
    simp [decodeMisc, fieldX_wordXK, fieldKK_wordXK]
  | unrecognized w => cases h

/-! ### Encoding what was decoded gives the word back -/

theorem encode_decodeZero (w : Word) : encode (decodeZero w) = w := by
  unfold decodeZero
  split
  · next h => exact h.symm
  · split
    · next h => exact h.symm
    · rfl

theorem encode_decodeAlu {w : Word} (hm : (fieldMajor w).toNat = 8) : encode (decodeAlu w) = w := by
  unfold decodeAlu
  split
  case h_10 => rfl
  all_goals exact wordXYN_of_fields w 0x8 _ hm ‹_›

theorem encode_decodeKey {w : Word} (hm : (fieldMajor w).toNat = 14) : encode (decodeKey w) = w := by
  unfold decodeKey
  split
  case h_3 => rfl
  all_goals exact wordXK_of_fields w 0xE _ hm ‹_›

theorem encode_decodeMisc {w : Word} (hm : (fieldMajor w).toNat = 15) : encode (decodeMisc w) = w := by
  unfold decodeMisc
  split
  case h_10 => rfl
  all_goals exact wordXK_of_fields w 0xF _ hm ‹_›

/-- The formats XY of majors 5 and 9, whose low nibble is fixed at 0. -/
theorem encode_ite_fieldN {w : Word} {m : Nibble} {i : Instr} (hm : (fieldMajor w).toNat = m.toNat)
    (hi : encode i = wordXYN m (fieldX w) (fieldY w) 0) :
    encode (if fieldN w = 0 then i else .unrecognized w) = w := by
  split
  · next h => rw [hi, wordXYN_of_fields w m 0 hm (by rw [h])]
  · rfl

/-- The decoder loses no bit of the word (R75). -/
theorem encode_decode (w : Word) : encode (decode w) = w := by
  have hmax : (fieldMajor w).toNat < 16 := (fieldMajor w).isLt
  unfold decode
  split
  case h_1 => exact encode_decodeZero w
  case h_2 hm => exact wordA_of_fields w 0x1 hm
  case h_3 hm => exact wordA_of_fields w 0x2 hm
  case h_4 hm => exact wordXK_of_fields w 0x3 _ hm rfl
  case h_5 hm => exact wordXK_of_fields w 0x4 _ hm rfl
  case h_6 hm => exact encode_ite_fieldN (m := 0x5) hm rfl
  case h_7 hm => exact wordXK_of_fields w 0x6 _ hm rfl
  case h_8 hm => exact wordXK_of_fields w 0x7 _ hm rfl
  case h_9 hm => exact encode_decodeAlu hm
  case h_10 hm => exact encode_ite_fieldN (m := 0x9) hm rfl
  case h_11 hm => exact wordA_of_fields w 0xA hm
  case h_12 hm => exact wordA_of_fields w 0xB hm
  case h_13 hm => exact wordXK_of_fields w 0xC _ hm rfl
  case h_14 hm => exact wordXYN_of_fields w 0xD _ hm rfl
  case h_15 hm => exact encode_decodeKey hm
  case h_16 => exact encode_decodeMisc (by grind)

/-! ### The rows of the opcode map -/

theorem Row.matches_iff (r : Row) (w : Word) : r.matches w = true ↔ w &&& r.mask = r.pattern := by
  rw [Row.matches, beq_iff_eq]

/-- A word in a row that fixes the major is the word of that major and its own fields. -/
theorem fieldMajor_of_matches {w p : Word} {m : Nibble} {name : String} (h : (Row.mk name p 0xF000).matches w = true)
    (hp : wordXK m 0 0 = p) : (fieldMajor w).toNat = m.toNat := by
  have hw : w &&& 0xF000#16 = p := (Row.matches_iff _ w).mp h
  rw [mask_major, ← hp] at hw
  rw [← fieldMajor_wordXK m 0 0, ← hw, fieldMajor_wordXK]

/-- A word in a row that fixes the major and the low nibble. -/
theorem wordXYN_of_matches {w p : Word} {m n : Nibble} {name : String} (h : (Row.mk name p 0xF00F).matches w = true)
    (hp : wordXYN m 0 0 n = p) : wordXYN m (fieldX w) (fieldY w) n = w := by
  have hw : w &&& 0xF00F#16 = p := (Row.matches_iff _ w).mp h
  rw [mask_major_n, ← hp] at hw
  refine wordXYN_of_fields w m n ?_ ?_
  · rw [← fieldMajor_wordXYN m 0 0 n, ← hw, fieldMajor_wordXYN]
  · rw [← fieldN_wordXYN m 0 0 n, ← hw, fieldN_wordXYN]

/-- A word in a row that fixes the major and the low byte. -/
theorem wordXK_of_matches {w p : Word} {m : Nibble} {kk : Byte} {name : String}
    (h : (Row.mk name p 0xF0FF).matches w = true) (hp : wordXK m 0 kk = p) : wordXK m (fieldX w) kk = w := by
  have hw : w &&& 0xF0FF#16 = p := (Row.matches_iff _ w).mp h
  rw [mask_major_kk, ← hp] at hw
  refine wordXK_of_fields w m kk ?_ ?_
  · rw [← fieldMajor_wordXK m 0 kk, ← hw, fieldMajor_wordXK]
  · rw [← fieldKK_wordXK m 0 kk, ← hw, fieldKK_wordXK]

/-- A word in a row that fixes every bit is the row's pattern. -/
theorem eq_of_matches {w p : Word} {name : String} (h : (Row.mk name p 0xFFFF).matches w = true) : p = w := by
  have hw : w &&& 0xFFFF#16 = p := (Row.matches_iff _ w).mp h
  rw [← hw]
  exact BitVec.and_allOnes

/-- A word in a row of the opcode map is the word of a listed instruction with the row's mnemonic (R74). -/
theorem exists_listed_of_matches {r : Row} {w : Word} (hr : r ∈ opcodeTable) (h : r.matches w = true) :
    ∃ i : Instr, i.listed = true ∧ i.mnemonic = r.mnemonic ∧ encode i = w := by
  rw [opcodeTable, List.mem_append, List.mem_append] at hr
  obtain (hr | hr) | hr := hr
  · simp only [opcodeRowsLow, List.mem_cons, List.not_mem_nil, or_false] at hr
    obtain rfl | rfl | rfl | rfl | rfl | rfl | rfl | rfl | rfl := hr
    · exact ⟨.cls, rfl, rfl, eq_of_matches h⟩
    · exact ⟨.ret, rfl, rfl, eq_of_matches h⟩
    · exact ⟨.jp (fieldNNN w), rfl, rfl, wordA_of_fields w 0x1 (fieldMajor_of_matches h (by decide))⟩
    · exact ⟨.call (fieldNNN w), rfl, rfl, wordA_of_fields w 0x2 (fieldMajor_of_matches h (by decide))⟩
    · exact ⟨.seImm (fieldX w) (fieldKK w), rfl, rfl, wordXK_of_fields w 0x3 _ (fieldMajor_of_matches h (by decide)) rfl⟩
    · exact ⟨.sneImm (fieldX w) (fieldKK w), rfl, rfl, wordXK_of_fields w 0x4 _ (fieldMajor_of_matches h (by decide)) rfl⟩
    · exact ⟨.seReg (fieldX w) (fieldY w), rfl, rfl, wordXYN_of_matches h (by decide)⟩
    · exact ⟨.ldImm (fieldX w) (fieldKK w), rfl, rfl, wordXK_of_fields w 0x6 _ (fieldMajor_of_matches h (by decide)) rfl⟩
    · exact ⟨.addImm (fieldX w) (fieldKK w), rfl, rfl, wordXK_of_fields w 0x7 _ (fieldMajor_of_matches h (by decide)) rfl⟩
  · simp only [opcodeRowsMid, List.mem_cons, List.not_mem_nil, or_false] at hr
    obtain rfl | rfl | rfl | rfl | rfl | rfl | rfl | rfl | rfl | rfl | rfl | rfl | rfl | rfl := hr
    · exact ⟨.ldReg (fieldX w) (fieldY w), rfl, rfl, wordXYN_of_matches h (by decide)⟩
    · exact ⟨.orReg (fieldX w) (fieldY w), rfl, rfl, wordXYN_of_matches h (by decide)⟩
    · exact ⟨.andReg (fieldX w) (fieldY w), rfl, rfl, wordXYN_of_matches h (by decide)⟩
    · exact ⟨.xorReg (fieldX w) (fieldY w), rfl, rfl, wordXYN_of_matches h (by decide)⟩
    · exact ⟨.addReg (fieldX w) (fieldY w), rfl, rfl, wordXYN_of_matches h (by decide)⟩
    · exact ⟨.sub (fieldX w) (fieldY w), rfl, rfl, wordXYN_of_matches h (by decide)⟩
    · exact ⟨.shr (fieldX w) (fieldY w), rfl, rfl, wordXYN_of_matches h (by decide)⟩
    · exact ⟨.subn (fieldX w) (fieldY w), rfl, rfl, wordXYN_of_matches h (by decide)⟩
    · exact ⟨.shl (fieldX w) (fieldY w), rfl, rfl, wordXYN_of_matches h (by decide)⟩
    · exact ⟨.sneReg (fieldX w) (fieldY w), rfl, rfl, wordXYN_of_matches h (by decide)⟩
    · exact ⟨.ldI (fieldNNN w), rfl, rfl, wordA_of_fields w 0xA (fieldMajor_of_matches h (by decide))⟩
    · exact ⟨.jpV0 (fieldNNN w), rfl, rfl, wordA_of_fields w 0xB (fieldMajor_of_matches h (by decide))⟩
    · exact ⟨.rnd (fieldX w) (fieldKK w), rfl, rfl, wordXK_of_fields w 0xC _ (fieldMajor_of_matches h (by decide)) rfl⟩
    · exact ⟨.drw (fieldX w) (fieldY w) (fieldN w), rfl, rfl,
        wordXYN_of_fields w 0xD _ (fieldMajor_of_matches h (by decide)) rfl⟩
  · simp only [opcodeRowsHigh, List.mem_cons, List.not_mem_nil, or_false] at hr
    obtain rfl | rfl | rfl | rfl | rfl | rfl | rfl | rfl | rfl | rfl | rfl := hr
    · exact ⟨.skp (fieldX w), rfl, rfl, wordXK_of_matches h (by decide)⟩
    · exact ⟨.sknp (fieldX w), rfl, rfl, wordXK_of_matches h (by decide)⟩
    · exact ⟨.ldVxDt (fieldX w), rfl, rfl, wordXK_of_matches h (by decide)⟩
    · exact ⟨.ldVxK (fieldX w), rfl, rfl, wordXK_of_matches h (by decide)⟩
    · exact ⟨.ldDtVx (fieldX w), rfl, rfl, wordXK_of_matches h (by decide)⟩
    · exact ⟨.ldStVx (fieldX w), rfl, rfl, wordXK_of_matches h (by decide)⟩
    · exact ⟨.addIVx (fieldX w), rfl, rfl, wordXK_of_matches h (by decide)⟩
    · exact ⟨.ldFVx (fieldX w), rfl, rfl, wordXK_of_matches h (by decide)⟩
    · exact ⟨.ldBVx (fieldX w), rfl, rfl, wordXK_of_matches h (by decide)⟩
    · exact ⟨.ldMemVx (fieldX w), rfl, rfl, wordXK_of_matches h (by decide)⟩
    · exact ⟨.ldVxMem (fieldX w), rfl, rfl, wordXK_of_matches h (by decide)⟩

/-- The word of a listed instruction is in a row (R71, R74). -/
theorem recognized_encode {i : Instr} (h : i.listed = true) : recognized (encode i) = true := by
  have hrow : ∃ r ∈ opcodeTable, r.mnemonic = i.mnemonic ∧ r.matches (encode i) = true := by
    cases i with
    | unrecognized w => cases h
    | cls => exact Laws.FixedBits.cls
    | ret => exact Laws.FixedBits.ret
    | jp nnn => exact Laws.FixedBits.jp nnn
    | call nnn => exact Laws.FixedBits.call nnn
    | ldI nnn => exact Laws.FixedBits.ldI nnn
    | jpV0 nnn => exact Laws.FixedBits.jpV0 nnn
    | seImm x kk => exact Laws.FixedBits.seImm x kk
    | sneImm x kk => exact Laws.FixedBits.sneImm x kk
    | ldImm x kk => exact Laws.FixedBits.ldImm x kk
    | addImm x kk => exact Laws.FixedBits.addImm x kk
    | rnd x kk => exact Laws.FixedBits.rnd x kk
    | seReg x y => exact Laws.FixedBits.seReg x y
    | sneReg x y => exact Laws.FixedBits.sneReg x y
    | ldReg x y => exact Laws.FixedBits.ldReg x y
    | orReg x y => exact Laws.FixedBits.orReg x y
    | andReg x y => exact Laws.FixedBits.andReg x y
    | xorReg x y => exact Laws.FixedBits.xorReg x y
    | addReg x y => exact Laws.FixedBits.addReg x y
    | sub x y => exact Laws.FixedBits.sub x y
    | shr x y => exact Laws.FixedBits.shr x y
    | subn x y => exact Laws.FixedBits.subn x y
    | shl x y => exact Laws.FixedBits.shl x y
    | drw x y n => exact Laws.FixedBits.drw x y n
    | skp x => exact Laws.FixedBits.skp x
    | sknp x => exact Laws.FixedBits.sknp x
    | ldVxDt x => exact Laws.FixedBits.ldVxDt x
    | ldVxK x => exact Laws.FixedBits.ldVxK x
    | ldDtVx x => exact Laws.FixedBits.ldDtVx x
    | ldStVx x => exact Laws.FixedBits.ldStVx x
    | addIVx x => exact Laws.FixedBits.addIVx x
    | ldFVx x => exact Laws.FixedBits.ldFVx x
    | ldBVx x => exact Laws.FixedBits.ldBVx x
    | ldMemVx x => exact Laws.FixedBits.ldMemVx x
    | ldVxMem x => exact Laws.FixedBits.ldVxMem x
  obtain ⟨r, hr, -, hm⟩ := hrow
  exact List.any_eq_true.mpr ⟨r, hr, hm⟩

/-- A word in a row decodes to a listed instruction with the row's mnemonic. -/
theorem decode_of_matches {r : Row} {w : Word} (hr : r ∈ opcodeTable) (h : r.matches w = true) :
    (decode w).listed = true ∧ (decode w).mnemonic = r.mnemonic := by
  obtain ⟨i, hi, hname, rfl⟩ := exists_listed_of_matches hr h
  rw [decode_encode hi]
  exact ⟨hi, hname⟩

/-- What the decoder leaves unlisted it keeps as the word it read. -/
theorem decode_of_not_listed {w : Word} (h : (decode w).listed = false) : decode w = .unrecognized w := by
  have hw := encode_decode w
  cases hd : decode w with
  | unrecognized w' => rw [← hw, hd, encode]
  | _ => rw [hd] at h; cases h

/-- The decoder finds an instruction exactly for the words in a row of the opcode map (R75, R76). -/
theorem listed_decode (w : Word) : (decode w).listed = recognized w := by
  cases hw : recognized w with
  | true =>
    obtain ⟨r, hr, hm⟩ := List.any_eq_true.mp hw
    exact (decode_of_matches hr hm).1
  | false =>
    cases hl : (decode w).listed with
    | false => rfl
    | true => rw [← hw, ← encode_decode w, recognized_encode hl]

theorem decode_eq_unrecognized_iff (w : Word) : decode w = .unrecognized w ↔ recognized w = false := by
  rw [← listed_decode]
  exact ⟨fun h => by rw [h]; rfl, decode_of_not_listed⟩

theorem wf_decode (w : Word) : (decode w).wf = true := by
  cases hw : recognized w with
  | true =>
    rw [← listed_decode] at hw
    cases hd : decode w with
    | unrecognized w' => rw [hd] at hw; cases hw
    | _ => rfl
  | false =>
    rw [(decode_eq_unrecognized_iff w).mpr hw, Instr.wf, hw]
    rfl

/-- Every well-formed term is the instruction its own word decodes to. -/
theorem decode_encode_of_wf {i : Instr} (h : i.wf = true) : decode (encode i) = i := by
  cases hl : i.listed with
  | true => exact decode_encode hl
  | false =>
    cases i with
    | unrecognized w => exact (decode_eq_unrecognized_iff w).mpr (by simpa only [Instr.wf, Bool.not_eq_true'] using h)
    | _ => cases hl

/-! ### Bytes -/

theorem decodeBytes_bytesOfWord (w : Word) (rest : List Byte) :
    decodeBytes (bytesOfWord w ++ rest) = .ok (decode w, rest) := by
  simp only [bytesOfWord, List.cons_append, List.nil_append, decodeBytes, wordOfBytes_bytes]

theorem bytesOfWord_wordOfBytes (hi lo : Byte) : bytesOfWord (wordOfBytes hi lo) = [hi, lo] := by
  have hlo : lo.toNat < 256 := lo.isLt
  have hhi : hi.toNat < 256 := hi.isLt
  have hhigh : (wordOfBytes hi lo).extractLsb' 8 8 = hi := by
    apply BitVec.eq_of_toNat_eq
    rw [BitVec.extractLsb'_toNat, Nat.shiftRight_eq_div_pow, wordOfBytes, append_toNat]
    omega
  have hlow : (wordOfBytes hi lo).extractLsb' 0 8 = lo := by
    apply BitVec.eq_of_toNat_eq
    rw [BitVec.extractLsb'_toNat, Nat.shiftRight_zero, wordOfBytes, append_toNat]
    omega
  rw [bytesOfWord, hhigh, hlow]

/-- Settles O2: the bytes put together are the word, and a well-formed term is what its word decodes to. -/
theorem decodeOfEncode : Obligations.DecodeOfEncode := by
  intro i rest h
  rw [encodeBytes, decodeBytes_bytesOfWord, decode_encode_of_wf h]

/-- Settles O3: the decoder is total, answers well-formed terms only and loses no bit. -/
theorem encodeOfDecode : Obligations.EncodeOfDecode := by
  intro hi lo rest
  refine ⟨decode (wordOfBytes hi lo), rfl, wf_decode _, ?_⟩
  rw [encodeBytes, encode_decode, bytesOfWord_wordOfBytes]

/-! ### The opcode map by numbers -/

/-- A number that is a listed instruction's word decodes to the instruction. -/
theorem decode_ofNat {i : Instr} {n : Nat} (hi : i.listed = true) (hn : (encode i).toNat = n) :
    decode (BitVec.ofNat 16 n) = i := by
  rw [← hn, BitVec.ofNat_toNat, BitVec.setWidth_eq, decode_encode hi]

/-- The words of the EXkk rows, with the row's byte beside the major nibble as the opcode map writes them (R74). -/
theorem wordXK_E_toNat (x : Reg) (kk : Byte) : (wordXK 0xE x kk).toNat = 0xE000 + kk.toNat + x.val * 0x100 := by
  rw [wordXK_toNat, show (0xE : Nibble).toNat = 0xE from rfl]
  omega

/-- Settles O4: a word in a row is the word of an instruction of the row's mnemonic, and each row's number with its operand
fields is the word the encoder builds. -/
theorem decodeFollowsOpcodeMap : Obligations.DecodeFollowsOpcodeMap := by
  refine ⟨fun w => ⟨fun r hr h => (decode_of_matches hr h).2, fun h => ?_⟩, by decide, by decide, fun x y n kk nnn => ?_⟩
  · exact (decode_eq_unrecognized_iff w).mpr (List.any_eq_false.mpr fun r hr => by rw [h r hr]; decide)
  · exact ⟨decode_ofNat rfl (wordA_toNat 0x1 nnn), decode_ofNat rfl (wordA_toNat 0x2 nnn),
      decode_ofNat rfl (wordXK_toNat 0x3 x kk), decode_ofNat rfl (wordXK_toNat 0x4 x kk),
      decode_ofNat rfl (wordXYN_toNat 0x5 x y 0x0), decode_ofNat rfl (wordXK_toNat 0x6 x kk),
      decode_ofNat rfl (wordXK_toNat 0x7 x kk), decode_ofNat rfl (wordXYN_toNat 0x8 x y 0x0),
      decode_ofNat rfl (Machine.wordXYN_8_toNat x y 0x1), decode_ofNat rfl (Machine.wordXYN_8_toNat x y 0x2),
      decode_ofNat rfl (Machine.wordXYN_8_toNat x y 0x3), decode_ofNat rfl (Machine.wordXYN_8_toNat x y 0x4),
      decode_ofNat rfl (Machine.wordXYN_8_toNat x y 0x5), decode_ofNat rfl (Machine.wordXYN_8_toNat x y 0x6),
      decode_ofNat rfl (Machine.wordXYN_8_toNat x y 0x7), decode_ofNat rfl (Machine.wordXYN_8_toNat x y 0xE),
      decode_ofNat rfl (wordXYN_toNat 0x9 x y 0x0), decode_ofNat rfl (wordA_toNat 0xA nnn),
      decode_ofNat rfl (wordA_toNat 0xB nnn), decode_ofNat rfl (wordXK_toNat 0xC x kk),
      decode_ofNat rfl (wordXYN_toNat 0xD x y n), decode_ofNat rfl (wordXK_E_toNat x 0x9E),
      decode_ofNat rfl (wordXK_E_toNat x 0xA1), decode_ofNat rfl (Machine.wordXK_F_toNat x 0x07),
      decode_ofNat rfl (Machine.wordXK_F_toNat x 0x0A), decode_ofNat rfl (Machine.wordXK_F_toNat x 0x15),
      decode_ofNat rfl (Machine.wordXK_F_toNat x 0x18), decode_ofNat rfl (Machine.wordXK_F_toNat x 0x1E),
      decode_ofNat rfl (Machine.wordXK_F_toNat x 0x29), decode_ofNat rfl (Machine.wordXK_F_toNat x 0x33),
      decode_ofNat rfl (Machine.wordXK_F_toNat x 0x55), decode_ofNat rfl (Machine.wordXK_F_toNat x 0x65)⟩

/-! ### The unrecognized words -/

theorem decodeZero_listed (w : Word) : (decodeZero w).listed = false ↔ w.toNat ≠ 0xE0 ∧ w.toNat ≠ 0xEE := by
  have hcls : w = 0x00E0#16 ↔ w.toNat = 0xE0 := BitVec.toNat_inj.symm
  have hret : w = 0x00EE#16 ↔ w.toNat = 0xEE := BitVec.toNat_inj.symm
  simp only [decodeZero, hcls, hret]
  split
  · next h => simp [Instr.listed, h]
  · split <;> simp_all [Instr.listed]

theorem decodeAlu_listed (w : Word) :
    (decodeAlu w).listed = false ↔ w.toNat % 16 ∈ [0x8, 0x9, 0xA, 0xB, 0xC, 0xD, 0xF] := by
  have hlt : w.toNat % 16 < 16 := Nat.mod_lt _ (by decide)
  unfold decodeAlu
  rw [fieldN_toNat]
  generalize w.toNat % 16 = n at hlt
  interval_cases n <;> simp [Instr.listed]

theorem decodeKey_listed (w : Word) : (decodeKey w).listed = false ↔ w.toNat % 256 ∉ [0x9E, 0xA1] := by
  unfold decodeKey
  rw [fieldKK_toNat]
  split <;> simp_all [Instr.listed]

theorem decodeMisc_listed (w : Word) :
    (decodeMisc w).listed = false ↔ w.toNat % 256 ∉ [0x07, 0x0A, 0x15, 0x18, 0x1E, 0x29, 0x33, 0x55, 0x65] := by
  unfold decodeMisc
  rw [fieldKK_toNat]
  split <;> simp_all [Instr.listed]

theorem ite_fieldN_listed {w : Word} {i : Instr} (hi : i.listed = true) :
    (if fieldN w = 0 then i else .unrecognized w).listed = false ↔ w.toNat % 16 ≠ 0 := by
  have hn : fieldN w = 0 ↔ w.toNat % 16 = 0 := by rw [← BitVec.toNat_inj, fieldN_toNat]; rfl
  simp only [hn]
  split
  · next h => simp [hi, h]
  · next h => simp [Instr.listed, h]

/-- Settles O5: the classes are the words each major's function nibble or byte leaves over. -/
theorem unrecognizedWordClasses : Obligations.UnrecognizedWordClasses := by
  intro w
  have hmajor : w.toNat / 4096 < 16 := by have := w.isLt; omega
  have hlow : w.toNat < 4096 ↔ w.toNat / 4096 = 0 := by omega
  rw [decode_eq_unrecognized_iff, ← listed_decode, hlow]
  unfold decode
  rw [fieldMajor_toNat]
  split
  case h_1 hm => simp [decodeZero_listed, hm]
  case h_6 hm | h_10 hm =>
    rw [ite_fieldN_listed rfl]
    simp [hm]
  case h_9 hm => simp [decodeAlu_listed, hm]
  case h_15 hm => simp [decodeKey_listed, hm]
  case h_16 =>
    have hm : w.toNat / 4096 = 15 := by grind
    simp [decodeMisc_listed, hm]
  case h_2 hm | h_3 hm | h_4 hm | h_5 hm | h_7 hm | h_8 hm | h_11 hm | h_12 hm | h_13 hm | h_14 hm =>
    simp [Instr.listed, hm]

/-- Settles O1: each sample is one evaluation of the decoder. -/
theorem sampleWordsDecode : Obligations.SampleWordsDecode := by
  unfold Obligations.SampleWordsDecode
  decide

end Sys2Proof
end

section
/-! PROOFS. O11, O12: what one instruction does, with its check and without (60_exceptions.md R242, 40_execution_cycle.md
section 6). -/

namespace Sys2Proof.Machine

/-! ### An instruction is its check and its effect -/

/-- The state an instruction leaves where its check lets it through. -/
def effect : Instr → State → State
  | .cls, s => s.advance.setFb Framebuffer.blank
  | .ret, s => s.advance.popPc
  | .jp nnn, s => (s.advance.markEndloop (decide (addrWord nnn = s.ms.pc))).jump (addrWord nnn)
  | .call nnn, s => (s.advance.push s.advance.ms.pc).jump (addrWord nnn)
  | .seImm x rr, s => s.advance.skipIf (s.getV x == rr)
  | .sneImm x rr, s => s.advance.skipIf (s.getV x != rr)
  | .seReg x y, s => s.advance.skipIf (s.getV x == s.getV y)
  | .ldImm x rr, s => s.advance.setV x rr
  | .addImm x rr, s => s.advance.setV x (s.getV x + rr)
  | .ldReg x y, s => s.advance.setV x (s.getV y)
  | .orReg x y, s => s.advance.writeThenClearVf x (s.getV x ||| s.getV y)
  | .andReg x y, s => s.advance.writeThenClearVf x (s.getV x &&& s.getV y)
  | .xorReg x y, s => s.advance.writeThenClearVf x (s.getV x ^^^ s.getV y)
  | .addReg x y, s => s.advance.flagThenWrite (carryFlag (s.getV x) (s.getV y)) x fun t => t.getV x + t.getV y
  | .sub x y, s => s.advance.flagThenWrite (greaterFlag (s.getV x) (s.getV y)) x fun t => t.getV x - t.getV y
  | .shr x _, s => s.advance.flagThenWrite (lowBitFlag (s.getV x)) x fun t => t.getV x >>> 1
  | .subn x y, s => s.advance.flagThenWrite (greaterFlag (s.getV y) (s.getV x)) x fun t => t.getV y - t.getV x
  | .shl x _, s => s.advance.flagThenWrite (highBitFlag (s.getV x)) x fun t => t.getV x <<< 1
  | .sneReg x y, s => s.advance.skipIf (s.getV x != s.getV y)
  | .ldI nnn, s => s.advance.setI (addrWord nnn)
  | .jpV0 nnn, s => s.advance.jump (addrWord nnn + (s.getV 0).setWidth 16)
  | .rnd x kk, s => s.advance.drawTaken.setV x (s.nextRand &&& kk)
  | .drw x y n, s => s.advance.drawSprite x y n
  | .skp x, s => s.advance.skipIf (s.keyPressed x)
  | .sknp x, s => s.advance.skipIf (!s.keyPressed x)
  | .ldVxDt x, s => s.advance.setV x s.ms.dt
  | .ldVxK x, s => s.advance.startWait x
  | .ldDtVx x, s => s.advance.setDt (s.getV x)
  | .ldStVx x, s => s.advance.setSt (s.getV x)
  | .addIVx x, s => s.advance.setI (s.ms.i + (s.getV x).setWidth 16)
  | .ldFVx x, s => s.advance.setI ((s.getV x).setWidth 16 * 5)
  | .ldBVx x, s => s.advance.writeBytes s.addrI (bcdDigits (s.getV x))
  | .ldMemVx x, s => s.advance.writeBytes s.addrI (s.regBlock x)
  | .ldVxMem x, s => s.advance.loadV x (s.readBytes s.addrI (blockLen x))
  | .unrecognized _, s => s.advance

theorem blockFault_eq (s : State) (n : Nat) :
    blockFault s n = if s.blockOutside n then some (.memoryOutOfRange, .addr (s.addrI + n - 1)) else none := by
  simp only [blockFault, State.blockOutside_iff, State.addrI, and_comm]

theorem keyFault_eq (s : State) (x : Reg) :
    keyFault s x = if s.keyOutside x then some (.keyIndexOutOfRange, .index (s.getV x).toNat) else none := by
  simp only [keyFault, State.keyOutside_iff]

/-- An instruction whose meaning is a check before its effect, where the table lists the check's error. -/
theorem exec_checked {i : Instr} {s u : State} {c : Prop} [Decidable c] {code : FaultCode} {info : FaultInfo}
    (he : exec i s = if c then .next (s.raise code (some (encode i)) info) else .next u)
    (hf : faultOf i s = if c then some (code, info) else none) :
    (∀ code info, faultOf i s = some (code, info) → exec i s = .next (s.raise code (some (encode i)) info)) ∧
      (faultOf i s = none → exec i s = .next u) := by
  rw [he, hf]
  split
  · refine ⟨fun code info h => ?_, nofun⟩
    cases h
    rfl
  · exact ⟨nofun, fun _ => rfl⟩

/-- Every instruction raises the error the table lists for the state, or, where it lists none, takes its effect. -/
theorem exec_spec (i : Instr) (s : State) :
    (∀ code info, faultOf i s = some (code, info) → exec i s = .next (s.raise code (some (encode i)) info)) ∧
      (faultOf i s = none → exec i s = .next (effect i s)) := by
  cases i with
  | ret | call => exact exec_checked rfl rfl
  | drw | ldBVx | ldMemVx | ldVxMem => exact exec_checked rfl (blockFault_eq s _)
  | skp | sknp => exact exec_checked rfl (keyFault_eq s _)
  | _ => exact ⟨nofun, fun _ => rfl⟩

theorem exec_of_fault {i : Instr} {s : State} {code : FaultCode} {info : FaultInfo}
    (h : faultOf i s = some (code, info)) : exec i s = .next (s.raise code (some (encode i)) info) :=
  (exec_spec i s).1 code info h

theorem exec_of_noFault {i : Instr} {s : State} (h : faultOf i s = none) : exec i s = .next (effect i s) :=
  (exec_spec i s).2 h

/-- The two ways an instruction ends. -/
theorem exec_cases {i : Instr} {s t : State} (h : exec i s = .next t) :
    (∃ code info, faultOf i s = some (code, info) ∧ t = s.raise code (some (encode i)) info) ∨
      (faultOf i s = none ∧ t = effect i s) := by
  cases hf : faultOf i s with
  | none => exact .inr ⟨rfl, Host.Outcome.next.inj (h.symm.trans (exec_of_noFault hf))⟩
  | some e => exact .inl ⟨e.1, e.2, rfl, Host.Outcome.next.inj (h.symm.trans (exec_of_fault hf))⟩

/-! ### What an effect leaves alone -/

theorem State.push_frame (s : State) (w : Word) : s.push w = { s with ms := (s.push w).ms } := by
  simp only [State.push]
  split <;> rfl

theorem State.popPc_frame (s : State) : s.popPc = { s with ms := s.popPc.ms } := by
  simp only [State.popPc]
  split <;> rfl

theorem effect_frame (i : Instr) (s : State) :
    effect i s = { s with
      ms := (effect i s).ms, fb := (effect i s).fb, wait := (effect i s).wait, draws := (effect i s).draws } := by
  cases i with
  | ret => rw [effect, State.popPc_frame]; rfl
  | call => rw [effect, State.push_frame]; rfl
  | seImm | sneImm | seReg | sneReg | skp | sknp => rw [effect, State.skipIf_eq]; rfl
  | _ => rfl

theorem effect_runState (i : Instr) (s : State) : (effect i s).runState = s.runState := by
  rw [effect_frame]

/-- What an instruction may change at all. -/
theorem exec_frame {i : Instr} {s t : State} (h : exec i s = .next t) :
    t = { s with ms := t.ms, fb := t.fb, wait := t.wait, draws := t.draws, runState := t.runState } := by
  obtain ⟨code, info, -, rfl⟩ | ⟨-, rfl⟩ := exec_cases h
  · rfl
  · rw [effect_runState]
    exact effect_frame i s

theorem effect_mem (i : Instr) (s : State) :
    (effect i s).ms.mem = s.ms.mem ∨ i.mnemonic ∈ ["LD_B_VX", "LD_MEM_VX"] := by
  cases i with
  | ldBVx | ldMemVx => exact .inr (by simp [Instr.mnemonic])
  | _ => exact .inl (by simp [effect, State.writeThenClearVf, State.flagThenWrite, State.drawSprite])

theorem effect_fb (i : Instr) (s : State) : (effect i s).fb = s.fb ∨ i.mnemonic ∈ ["CLS", "DRW"] := by
  cases i with
  | cls | drw => exact .inr (by simp [Instr.mnemonic])
  | _ => exact .inl (by simp [effect, State.writeThenClearVf, State.flagThenWrite, State.writeBytes])

theorem effect_stack (i : Instr) (s : State) : (effect i s).ms.stack = s.ms.stack ∨ i.mnemonic = "CALL" := by
  cases i with
  | call => exact .inr rfl
  | _ => exact .inl (by simp [effect, State.writeThenClearVf, State.flagThenWrite, State.drawSprite, State.writeBytes])

theorem effect_sp (i : Instr) (s : State) : (effect i s).ms.sp = s.ms.sp ∨ i.mnemonic ∈ ["RET", "CALL"] := by
  cases i with
  | ret | call => exact .inr (by simp [Instr.mnemonic])
  | _ => exact .inl (by simp [effect, State.writeThenClearVf, State.flagThenWrite, State.drawSprite, State.writeBytes])

/-- Only 1NNN writes `endloop`, and it never clears it (R28). -/
theorem effect_endloop (i : Instr) (s : State) :
    (effect i s).ms.endloop = s.ms.endloop ∨
      ∃ nnn, i = .jp nnn ∧ addrWord nnn = s.ms.pc ∧ (effect i s).ms.endloop = true := by
  cases i with
  | jp nnn =>
    by_cases h : addrWord nnn = s.ms.pc
    · exact .inr ⟨nnn, rfl, h, by simp [effect, h]⟩
    · exact .inl (by simp [effect, h])
  | _ => exact .inl (by simp [effect, State.writeThenClearVf, State.flagThenWrite, State.drawSprite, State.writeBytes])

theorem effect_i (i : Instr) (s : State) :
    (effect i s).ms.i = s.ms.i ∨ i.mnemonic ∈ ["LD_I", "ADD_I_VX", "LD_F_VX"] := by
  cases i with
  | ldI | addIVx | ldFVx => exact .inr (by simp [Instr.mnemonic])
  | _ => exact .inl (by simp [effect, State.writeThenClearVf, State.flagThenWrite, State.drawSprite, State.writeBytes])

theorem effect_dt (i : Instr) (s : State) : (effect i s).ms.dt = s.ms.dt ∨ i.mnemonic = "LD_DT_VX" := by
  cases i with
  | ldDtVx => exact .inr rfl
  | _ => exact .inl (by simp [effect, State.writeThenClearVf, State.flagThenWrite, State.drawSprite, State.writeBytes])

theorem effect_st (i : Instr) (s : State) : (effect i s).ms.st = s.ms.st ∨ i.mnemonic = "LD_ST_VX" := by
  cases i with
  | ldStVx => exact .inr rfl
  | _ => exact .inl (by simp [effect, State.writeThenClearVf, State.flagThenWrite, State.drawSprite, State.writeBytes])

theorem effect_draws (i : Instr) (s : State) : (effect i s).draws = s.draws ∨ i.mnemonic = "RND" := by
  cases i with
  | rnd => exact .inr rfl
  | _ => exact .inl (by simp [effect, State.writeThenClearVf, State.flagThenWrite, State.drawSprite, State.writeBytes])

/-- The rows that write `V` registers beside `VF` (40_execution_cycle.md section 6). -/
def registerRows : List String :=
  ["LD_IMM", "ADD_IMM", "LD_REG", "RND", "LD_VX_DT", "LD_VX_MEM", "OR", "AND", "XOR", "ADD_REG", "SUB", "SHR", "SUBN",
    "SHL"]

/-- An instruction outside the register rows writes at most `VF`, and that only in DXYN. -/
theorem effect_getV (i : Instr) (s : State) (r : Reg) :
    (effect i s).getV r = s.getV r ∨ i.mnemonic ∈ registerRows ∨ (i.mnemonic = "DRW" ∧ r = vf) := by
  cases i with
  | ldImm | addImm | ldReg | rnd | ldVxDt | ldVxMem | orReg | andReg | xorReg | addReg | sub | shr | subn | shl =>
    exact .inr (.inl (by simp [Instr.mnemonic, registerRows]))
  | drw =>
    by_cases h : r = vf
    · exact .inr (.inr ⟨rfl, h⟩)
    · exact .inl (by simp [effect, State.drawSprite, h])
  | _ => exact .inl (by simp [effect])

/-! ### The two statements -/

/-- Settles O11: the check of an instruction is that of the table, and its effect keeps `run_state`. -/
theorem fatalErrorsAreTheListedOnes : Obligations.FatalErrorsAreTheListedOnes := fun i s =>
  ⟨fun _ _ h => exec_of_fault h, fun h => ⟨effect i s, exec_of_noFault h, effect_runState i s⟩⟩

/-- Settles O12: a fatal error writes `run_state` alone, and an effect writes the kinds of its row. -/
theorem onlyListedWrites : Obligations.OnlyListedWrites := by
  intro i s t h
  obtain ⟨code, info, -, rfl⟩ | ⟨-, rfl⟩ := exec_cases h
  · exact ⟨.inl rfl, .inl rfl, .inl rfl, .inl rfl, .inl rfl, .inl rfl, .inl rfl, .inl rfl, .inl rfl, .inl rfl, .inl rfl,
      fun _ _ => .inl rfl, rfl⟩
  · refine ⟨effect_mem i s, effect_fb i s, effect_stack i s, effect_sp i s, ?endloop, effect_i i s, effect_dt i s,
      effect_st i s, ?wait, effect_draws i s, ?flag, fun r hr => ?regs, exec_frame h⟩
    case endloop =>
      obtain h | ⟨nnn, rfl, -, h⟩ := effect_endloop i s
      · exact .inl h
      · exact .inr ⟨rfl, h⟩
    case wait =>
      obtain h | ⟨x, rfl, -⟩ := exec_wait h
      · exact .inl h
      · exact .inr rfl
    case flag =>
      obtain h | h | ⟨h, -⟩ := effect_getV i s vf
      · exact .inl h
      · exact .inr (List.mem_append_left ["DRW"] h)
      · exact .inr (by rw [h]; decide)
    case regs =>
      obtain h | h | ⟨-, h⟩ := effect_getV i s r
      · exact .inl h
      · exact .inr h
      · exact absurd h hr

end Sys2Proof.Machine
end

section
/-! PROOFS. O58, O59: the machine's invariant and the self-jump (40_execution_cycle.md section 2, 60_exceptions.md
sections 3 and 4). -/

namespace Sys2Proof.Machine

/-! ### Steps that complete no instruction -/

/-- What a step that completes no instruction may change of the machine proper: the `V` registers and the timers. -/
structure Quiet (s t : State) : Prop where
  cfg : t.cfg = s.cfg
  ms : t.ms = { s.ms with v := t.ms.v, dt := t.ms.dt, st := t.ms.st }
  fb : t.fb = s.fb
  draws : t.draws = s.draws
  log : t.snap.log = s.snap.log
  pub : t.snap.pub = s.snap.pub

/-- No fatal error is raised between the two states. -/
def NoNewFault (s t : State) : Prop := ∀ f, t.runState = .faulted f → s.runState = .faulted f

/-- What S4 may change. -/
theorem State.subStep4_frame (s : State) :
    s.subStep4 = { s with
      ms := { s.ms with v := s.subStep4.ms.v, dt := s.subStep4.ms.dt, st := s.subStep4.ms.st }
      keys := s.subStep4.keys, wait := s.subStep4.wait, runState := s.subStep4.runState
      lastTimer := s.subStep4.lastTimer, fbOut := s.subStep4.fbOut, hostQueue := s.subStep4.hostQueue, phase := .s1 } := by
  rw [State.subStep4_eq]
  split
  · rw [State.pollEvents_frame, State.beforePoll_frame]
    rfl
  · rfl

theorem State.subStep4_noNewFault (s : State) : NoNewFault s s.subStep4 := by
  intro f h
  rw [State.subStep4_eq] at h
  split at h
  · change (s.beforePoll.pollEvents s.hostQueue).runState = _ at h
    rw [State.pollEvents_runState, State.beforePoll_frame] at h
    split at h
    · cases h
    · exact h
  · exact h

theorem State.subStep1_quiet (s : State) : Quiet s s.subStep1 ∧ NoNewFault s s.subStep1 := by
  simp only [State.subStep1]
  split
  · exact ⟨⟨rfl, rfl, rfl, rfl, rfl, rfl⟩, nofun⟩
  · exact ⟨⟨rfl, rfl, rfl, rfl, rfl, rfl⟩, fun _ h => h⟩

theorem State.subStep2_quiet (s : State) : Quiet s s.subStep2 ∧ NoNewFault s s.subStep2 := by
  simp only [State.subStep2]
  split <;> exact ⟨⟨rfl, rfl, rfl, rfl, rfl, rfl⟩, fun _ h => h⟩

theorem State.subStep4_quiet (s : State) : Quiet s s.subStep4 ∧ NoNewFault s s.subStep4 := by
  refine ⟨?_, s.subStep4_noNewFault⟩
  rw [State.subStep4_frame]
  exact ⟨rfl, rfl, rfl, rfl, rfl, rfl⟩

theorem State.observe_quiet (s : State) (op : ObserverOp) : Quiet s (s.observe op) ∧ NoNewFault s (s.observe op) := by
  rw [State.observe_frame]
  exact ⟨⟨rfl, rfl, rfl, rfl, rfl, rfl⟩, fun _ h => h⟩

/-- Which turns are left is not part of the machine proper. -/
theorem quiet_of_turns {s t : State} {rest : List Turn}
    (h : Quiet { s with turns := rest } t ∧ NoNewFault { s with turns := rest } t) : Quiet s t ∧ NoNewFault s t :=
  ⟨⟨h.1.cfg, h.1.ms, h.1.fb, h.1.draws, h.1.log, h.1.pub⟩, h.2⟩

theorem quiet_raise (s : State) (rest : List Turn) (code : FaultCode) (op : Option Word) (info : FaultInfo) :
    Quiet s ({ s with turns := rest }.raise code op info) := ⟨rfl, rfl, rfl, rfl, rfl, rfl⟩

/-! ### The three kinds of step -/

/-- The state after an instruction that completed. -/
def State.completed (s : State) : State := { (effect s.fetched s).publish s.line with phase := .s4 }

theorem State.retire_raise (s : State) (l : TraceLine) (code : FaultCode) (op : Option Word) (info : FaultInfo) :
    (s.raise code op info).retire l = s.raise code op info := rfl

theorem State.retire_effect {s : State} (hr : s.runState = .running) : (effect s.fetched s).retire s.line = s.completed := by
  have : (effect s.fetched s).isRunning = true := by rw [State.isRunning_iff, effect_runState, hr]
  rw [State.retire, if_pos this, State.completed]

/-- A step completes no instruction and raises no error, or it is an instruction tick that raises one, or one that
completes the instruction at `PC`. -/
theorem step_kinds {s t : State} (h : step s = .next t) :
    (Quiet s t ∧ NoNewFault s t) ∨
    ∃ rest, s.atTick rest ∧ s.pausedSeen = false ∧ s.wait = .idle ∧
      ((∃ code op info, (0xFFE < s.ms.pc.toNat ∨ faultOf s.fetched { s with turns := rest } ≠ none) ∧
          t = { s with turns := rest }.raise code op info) ∨
        (s.ms.pc.toNat ≤ 0xFFE ∧ faultOf s.fetched { s with turns := rest } = none ∧
          t = { s with turns := rest }.completed)) := by
  obtain ⟨op, rest, -, -, rfl⟩ | ⟨e, rest, -, rfl⟩ | ⟨n, rest, -, rfl⟩ | ⟨rest, -, -, rfl⟩ | ⟨rest, hm, ht⟩ := step_cases h
  · exact .inl (quiet_of_turns (State.observe_quiet { s with turns := rest } op))
  · exact .inl ⟨⟨rfl, rfl, rfl, rfl, rfl, rfl⟩, fun _ h => h⟩
  · exact .inl ⟨⟨rfl, rfl, rfl, rfl, rfl, rfl⟩, fun _ h => h⟩
  · exact .inl ⟨⟨rfl, rfl, rfl, rfl, rfl, rfl⟩, fun _ h => h⟩
  · obtain ⟨-, rfl⟩ | ⟨-, rfl⟩ | ⟨-, rfl⟩ | ⟨-, -, rfl⟩ | ⟨hp, hseen, hwait, hpc, rfl⟩ | ⟨hp, hseen, hwait, hpc, u, hu, rfl⟩ :=
      State.threadStep_cases ht
    · exact .inl (quiet_of_turns (State.subStep1_quiet { s with turns := rest }))
    · exact .inl (quiet_of_turns (State.subStep2_quiet { s with turns := rest }))
    · exact .inl (quiet_of_turns (State.subStep4_quiet { s with turns := rest }))
    · exact .inl ⟨⟨rfl, rfl, rfl, rfl, rfl, rfl⟩, fun _ h => h⟩
    · exact .inr ⟨rest, ⟨hm, hp⟩, hseen, hwait, .inl ⟨_, _, _, .inl hpc, rfl⟩⟩
    · refine .inr ⟨rest, ⟨hm, hp⟩, hseen, hwait, ?_⟩
      obtain ⟨code, info, hf, rfl⟩ | ⟨hf, rfl⟩ := exec_cases hu
      · exact .inl ⟨_, _, _, .inr (fun hn => by cases hn.symm.trans hf), State.retire_raise _ _ _ _ _⟩
      · exact .inr ⟨hpc, hf, State.retire_effect (s := { s with turns := rest }) hm.1⟩

/-! ### The gates' times -/

/-- Every step keeps the gates' times in the past: S1 alone samples the counter, and a gate fires at the sample. -/
theorem step_timesOk {s t : State} (h : step s = .next t) (hs : s.timesOk) : t.timesOk := by
  obtain ⟨hi, hti, hn⟩ := hs
  obtain ⟨op, rest, -, -, rfl⟩ | ⟨e, rest, -, rfl⟩ | ⟨n, rest, -, rfl⟩ | ⟨rest, -, -, rfl⟩ | ⟨rest, -, ht⟩ := step_cases h
  · rw [State.observe_frame]
    exact ⟨hi, hti, hn⟩
  · exact ⟨hi, hti, hn⟩
  · exact ⟨hi, hti, Nat.le_add_right_of_le hn⟩
  · exact ⟨hi, hti, hn⟩
  · obtain ⟨-, rfl⟩ | ⟨-, rfl⟩ | ⟨-, rfl⟩ | ⟨-, -, rfl⟩ | ⟨-, -, -, -, rfl⟩ | ⟨-, -, -, -, u, hu, rfl⟩ :=
      State.threadStep_cases ht
    · have hsample := Nat.le_add_right_of_le (k := s.pace) hn
      simp only [State.subStep1]
      split <;> exact ⟨hi.trans hsample, hti.trans hsample, le_rfl⟩
    · simp only [State.subStep2]
      split
      · exact ⟨le_rfl, hti, hn⟩
      · exact ⟨hi, hti, hn⟩
    · rw [State.subStep4_eq]
      split
      · rw [State.pollEvents_frame, State.beforePoll_frame]
        exact ⟨hi, le_rfl, hn⟩
      · exact ⟨hi, hti, hn⟩
    · exact ⟨hi, hti, hn⟩
    · exact ⟨hi, hti, hn⟩
    · rw [State.retire_frame, exec_frame hu]
      exact ⟨hi, hti, hn⟩

/-! ### The program counter and the stack -/

theorem Word.toNat_add_le (w : Word) (n : Nat) : (w + BitVec.ofNat 16 n).toNat ≤ w.toNat + n := by
  rw [BitVec.toNat_add, BitVec.toNat_ofNat]
  exact (Nat.mod_le _ _).trans (Nat.add_le_add_left (Nat.mod_le _ _) _)

/-- A fetched instruction leaves `PC` at most at the target of the farthest BNNN (R103, R144). -/
theorem effect_pc_le (i : Instr) {s : State} (hs : s.pcOk) (hpc : s.ms.pc.toNat ≤ 0xFFE) :
    (effect i s).ms.pc.toNat ≤ 0x10FE := by
  obtain ⟨-, hslot⟩ := hs
  have hnext : (s.ms.pc + 2).toNat ≤ s.ms.pc.toNat + 2 := Word.toNat_add_le _ 2
  cases i with
  | ret =>
    by_cases hsp : 0 < s.advance.ms.sp.val
    · obtain ⟨-, hpop, -⟩ := s.advance.popPc_spec hsp
      have hk := hslot ⟨s.ms.sp.val - 1, by omega⟩
      rw [effect, hpop ⟨s.ms.sp.val - 1, by omega⟩ rfl]
      exact hk.trans (by decide)
    · rw [effect, State.popPc, dif_neg hsp, State.advance_ms_pc]
      omega
  | jp nnn | call nnn =>
    have hn : nnn.toNat < 4096 := nnn.isLt
    rw [effect, State.jump_ms_pc, addrWord_toNat]
    omega
  | jpV0 nnn =>
    have hn : nnn.toNat < 4096 := nnn.isLt
    have hv : (s.getV 0).toNat < 256 := (s.getV 0).isLt
    rw [effect, State.jump_ms_pc, BitVec.toNat_add, addrWord_toNat, BitVec.toNat_setWidth_of_le (by decide)]
    omega
  | seImm | sneImm | seReg | sneReg | skp | sknp =>
    rw [effect, State.advance_skipIf_pc]
    have hskip : (s.ms.pc + 4).toNat ≤ s.ms.pc.toNat + 4 := Word.toNat_add_le _ 4
    split <;> omega
  | _ =>
    simp only [effect, State.writeThenClearVf, State.flagThenWrite, State.drawSprite, State.writeBytes,
      State.setFb_ms, State.setV_ms_pc, State.setI_ms_pc, State.setDt_ms_pc, State.setSt_ms_pc, State.loadV_ms_pc,
      State.startWait_ms, State.drawTaken_ms, State.advance_ms_pc]
    omega

/-- A fetched instruction leaves every return address where a fetched instruction can follow (R103). -/
theorem effect_slot_le (i : Instr) {s : State} (hs : s.pcOk) (hpc : s.ms.pc.toNat ≤ 0xFFE) (k : Fin 16) :
    ((effect i s).slot k).toNat ≤ 0x1000 := by
  obtain ⟨-, hslot⟩ := hs
  cases i with
  | call nnn =>
    by_cases hsp : s.advance.ms.sp.val < 16
    · obtain ⟨-, hpush, -⟩ := s.advance.push_spec (s.ms.pc + 2) hsp
      have hnext : (s.ms.pc + 2).toNat ≤ s.ms.pc.toNat + 2 := Word.toNat_add_le _ 2
      change ((s.advance.push (s.ms.pc + 2)).slot k).toNat ≤ _
      rw [hpush k]
      split
      · omega
      · exact hslot k
    · rw [effect, State.push, dif_neg hsp]
      exact hslot k
  | _ =>
    simpa [effect, State.slot, State.writeThenClearVf, State.flagThenWrite, State.drawSprite, State.writeBytes]
      using hslot k

/-! ### Memory -/

/-- An instruction that passes its check stores inside memory, so it keeps the canonical form. -/
theorem effect_mem_wf {i : Instr} {s : State} (hf : faultOf i s = none) (hs : s.ms.mem.wf s.cfg.font) :
    (effect i s).ms.mem.wf s.cfg.font := by
  have hblock : ∀ {n : Nat} {bs : List Byte}, blockFault s n = none → bs.length = n → 0 < n →
      (s.writeBytes s.addrI bs).ms.mem.wf s.cfg.font := by
    rintro n bs hf rfl hn
    have hin : ¬ s.blockOutside bs.length = true := by
      intro ho
      rw [blockFault_eq, if_pos ho] at hf
      cases hf
    rw [State.blockOutside_iff] at hin
    refine Memory.wf_writeBytes _ _ _ _ hs ?_
    rw [State.addrI, memSize]
    omega
  cases i with
  | ldBVx x => exact hblock hf rfl (by decide)
  | ldMemVx x => exact hblock hf (s.length_regBlock x) (Nat.succ_pos _)
  | _ => simpa [effect, State.writeThenClearVf, State.flagThenWrite, State.drawSprite] using hs

/-! ### The log and the self-jump -/

theorem State.completed_frame (s : State) :
    s.completed = { effect s.fetched s with snap := s.completed.snap, phase := .s4 } := rfl

theorem State.publish_log_length_le {s : State} (l : TraceLine) (hs : s.logOk) :
    (s.publish l).snap.log.length ≤ s.cfg.traceCap := by
  simp only [State.publish]
  split
  · exact hs
  · exact length_appendLine_le _ _ _ hs

theorem getLast?_appendLine {cap : Nat} {log : List TraceLine} (l : TraceLine) (hlog : log.length ≤ cap) (hcap : cap ≠ 0) :
    (appendLine cap log l).getLast? = some l := by
  rw [appendLine]
  split
  · next h =>
    cases log with
    | nil => simp at h; omega
    | cons m ms => simp
  · simp

/-- A log with room for a line ends with the line just published: it is appended, or it stands there already (R260). -/
theorem State.publish_getLast? {s : State} (l : TraceLine) (hs : s.logOk) :
    s.cfg.traceCap = 0 ∨ (s.publish l).snap.log.getLast? = some l := by
  by_cases hcap : s.cfg.traceCap = 0
  · exact .inl hcap
  · refine .inr ?_
    simp only [State.publish]
    split
    · next h =>
      simp only [State.suppressed, Bool.and_eq_true, decide_eq_true_eq] at h
      exact h.2
    · exact getLast?_appendLine l hs hcap

/-- With `endloop` set, publishing the last line again leaves the log as it is, and so does publishing into a log that
holds no line (R260). -/
theorem State.publish_log_of_endloop {s : State} {l : TraceLine} (hs : s.logOk) (he : s.ms.endloop = true)
    (hl : s.cfg.traceCap = 0 ∨ s.snap.log.getLast? = some l) : (s.publish l).snap.log = s.snap.log := by
  simp only [State.publish, State.suppressed, he, Bool.true_and, decide_eq_true_eq]
  split
  · rfl
  · next hne =>
    obtain hcap | hlast := hl
    · have hnil : s.snap.log = [] := by
        rw [State.logOk, hcap] at hs
        exact List.eq_nil_of_length_eq_zero (Nat.le_zero.mp hs)
      rw [hnil, hcap]
      rfl
    · exact absurd hlast hne

theorem addrWord_eq_iff (nnn : Addr) (w : Word) : addrWord nnn = w ↔ nnn.toNat = w.toNat := by
  rw [← BitVec.toNat_inj, addrWord_toNat]

/-- A jump to its own address sets `endloop` and changes nothing else (R142). -/
theorem effect_selfJump {s : State} {nnn : Addr} (h : addrWord nnn = s.ms.pc) :
    effect (.jp nnn) s = { s with ms := { s.ms with endloop := true } } := by
  rw [effect, h, decide_eq_true rfl, State.markEndloop, Bool.or_true]
  rfl

/-- With `endloop` set, the jump to its own address does nothing but publish (R261). -/
theorem State.completed_of_selfLoop {s : State} {nnn : Addr} (hi : s.fetched = .jp nnn) (hn : addrWord nnn = s.ms.pc)
    (he : s.ms.endloop = true) : s.completed = { s.publish s.line with phase := .s4 } := by
  rw [State.completed, hi, effect_selfJump hn, ← he]

/-- Where an instruction leaves `endloop` set, it is a jump to its own address: it set `endloop`, or `endloop` was set and
`PC` has stood at such a jump since (R261). -/
theorem exists_selfJump {s : State} (hs : s.selfLoopOk) (he : (effect s.fetched s).ms.endloop = true) :
    ∃ nnn, s.fetched = .jp nnn ∧ addrWord nnn = s.ms.pc := by
  obtain h | ⟨nnn, hi, hn, -⟩ := effect_endloop s.fetched s
  · obtain ⟨-, ⟨nnn, hi, hn⟩, -⟩ := hs (h ▸ he)
    exact ⟨nnn, hi, (addrWord_eq_iff nnn _).mpr hn⟩
  · exact ⟨nnn, hi, hn⟩

/-! ### The invariant -/

/-- The invariant speaks of the parameters, the Machine State but for `V`, `I`, `SP` and the timers, the log, the published
copy and the times. -/
theorem State.Inv.of_quiet {s t : State} (hs : s.Inv) (hq : Quiet s t) (ht : t.timesOk) : t.Inv := by
  obtain ⟨⟨hmem, hpub⟩, hlog, ⟨hpc, hslot⟩, -, hloop⟩ := hs
  have hmem' : t.ms.mem = s.ms.mem := by rw [hq.ms]
  have hpc' : t.ms.pc = s.ms.pc := by rw [hq.ms]
  have hstack : t.ms.stack = s.ms.stack := by rw [hq.ms]
  have hend : t.ms.endloop = s.ms.endloop := by rw [hq.ms]
  have hword : t.fetchWord = s.fetchWord := by
    simp only [State.fetchWord, State.readByte, hmem', hpc', hq.cfg]
  refine ⟨⟨?_, ?_⟩, ?_, ⟨?_, fun k => ?_⟩, ht, ?_⟩
  · rw [hq.cfg, hmem']
    exact hmem
  · rw [hq.cfg, hq.pub]
    exact hpub
  · rw [State.logOk, hq.log, hq.cfg]
    exact hlog
  · rw [hpc']
    exact hpc
  · rw [State.slot, hstack]
    exact hslot k
  · rw [State.selfLoopOk, State.fetched, State.line, hend, hpc', hword, hq.cfg, hq.log]
    exact hloop

/-- A completed instruction keeps the invariant. -/
theorem State.Inv.completed {s : State} (hs : s.Inv) (hpc : s.ms.pc.toNat ≤ 0xFFE) (hf : faultOf s.fetched s = none) :
    s.completed.Inv := by
  obtain ⟨⟨hmem, -⟩, hlog, hpcs, htimes, hloop⟩ := hs
  have hframe := effect_frame s.fetched s
  have hcfg : (effect s.fetched s).cfg = s.cfg := by rw [hframe]
  have hsnap : (effect s.fetched s).snap = s.snap := by rw [hframe]
  have hlog' : (effect s.fetched s).logOk := by
    rw [State.logOk, hsnap, hcfg]
    exact hlog
  have hmem' : (effect s.fetched s).ms.mem.wf (effect s.fetched s).cfg.font := by
    rw [hcfg]
    exact effect_mem_wf hf hmem
  refine ⟨⟨hmem', hmem'⟩, State.publish_log_length_le s.line hlog',
    ⟨effect_pc_le s.fetched hpcs hpc, effect_slot_le s.fetched hpcs hpc⟩, ?times, fun he => ?loop⟩
  case times =>
    rw [State.completed_frame, hframe]
    exact htimes
  case loop =>
    obtain ⟨nnn, hi, hn⟩ := exists_selfJump hloop he
    have hlast := State.publish_getLast? s.line hlog'
    rw [hcfg] at hlast
    have hself : effect s.fetched s = { s with ms := { s.ms with endloop := true } } := by rw [hi, effect_selfJump hn]
    have hline : s.completed.line = s.line := by rw [State.completed_frame, hself]; rfl
    have hfetched : s.completed.fetched = s.fetched := by rw [State.completed_frame, hself]; rfl
    have hpc' : s.completed.ms.pc = s.ms.pc := by rw [State.completed_frame, hself]
    have hcfg' : s.completed.cfg = s.cfg := hcfg
    rw [hline, hfetched, hpc', hcfg']
    exact ⟨hpc, ⟨nnn, hi, (addrWord_eq_iff nnn _).mp hn⟩, hlast⟩

/-- Settles O58: a step that completes no instruction keeps what the invariant speaks of but for the times, and a completed
instruction keeps each part. -/
theorem stepKeepsInvariant : Obligations.StepKeepsInvariant := by
  intro s t hs h
  have ⟨_, _, _, hold, _⟩ := hs
  have htimes := step_timesOk h hold
  obtain ⟨hq, -⟩ | ⟨rest, -, -, -, ⟨code, op, info, -, rfl⟩ | ⟨hpc, hf, rfl⟩⟩ := step_kinds h
  · exact hs.of_quiet hq htimes
  · exact hs.of_quiet (quiet_raise s rest code op info) htimes
  · exact State.Inv.completed (s := { s with turns := rest }) hs hpc hf

/-- Settles O59: the instruction at `PC` is the jump to itself, which passes its check and changes nothing, and its line is
the last of the log. -/
theorem selfLoopFreezesTrace : Obligations.SelfLoopFreezesTrace := by
  rintro s t ⟨-, hlog, -, -, hloop⟩ he h
  obtain ⟨hpc, ⟨nnn, hi, hn⟩, hlast⟩ := hloop he
  obtain ⟨hq, hfault⟩ | ⟨rest, hm, -, -, ⟨code, op, info, hf, rfl⟩ | ⟨-, -, rfl⟩⟩ := step_kinds h
  · have hread : SameMemory s t := fun a => by rw [State.readByte, hq.cfg, hq.ms, State.readByte]
    exact ⟨by rw [hq.ms, he], by rw [hq.ms], hread, hq.log, hfault⟩
  · obtain hf | hf := hf
    · omega
    · rw [hi] at hf
      exact absurd rfl hf
  · rw [State.completed_of_selfLoop (s := { s with turns := rest }) hi ((addrWord_eq_iff nnn _).mpr hn) he]
    exact ⟨he, rfl, fun _ => rfl, State.publish_log_of_endloop (s := { s with turns := rest }) hlog he hlast, fun _ h => h⟩

end Sys2Proof.Machine
end

section
/-! PROOFS. O15, O16: the sprite draw (41_display.md R121 to R127). -/

namespace Sys2Proof.Machine

/-! ### The touched cells -/

/-- The cells a sprite of bytes read from memory touches, by row and column (R121, R124). -/
theorem mem_spriteCells_readBytes (s : State) (x0 y0 : Byte) (a n : Nat) (cx : Fin 64) (cy : Fin 32) :
    (cx, cy) ∈ spriteCells x0 y0 0 (s.readBytes a n) ↔
      ∃ row col, row < n ∧ col < 8 ∧ (s.readByte (a + row)).getLsbD (7 - col) = true ∧
        cx.val = (x0.toNat + col) % 64 ∧ cy.val = (y0.toNat + row) % 32 := by
  simp only [mem_spriteCells, State.length_readBytes, State.getElem_readBytes, spriteCell, Prod.mk.injEq, Fin.ext_iff,
    Fin.val_ofNat, Nat.zero_add]
  constructor
  · rintro ⟨row, hrow, col, hcol, hbit, hx, hy⟩
    exact ⟨row, col, hrow, hcol, hbit, hx, hy⟩
  · rintro ⟨row, col, hrow, hcol, hbit, hx, hy⟩
    exact ⟨row, hrow, col, hcol, hbit, hx, hy⟩

/-- A byte with a set bit touches a cell, and only such a byte does. -/
theorem setColumns_eq_nil_iff (b : Byte) : setColumns b = [] ↔ b = 0 := by
  rw [List.eq_nil_iff_forall_not_mem]
  constructor
  · intro h
    ext i hi
    have := h (7 - i)
    rw [mem_setColumns, show 7 - (7 - i) = i by omega] at this
    simpa [show 7 - i < 8 by omega, hi] using this
  · rintro rfl col
    simp [mem_setColumns]

theorem exists_mem_spriteCells_iff (x0 y0 : Byte) (row : Nat) (rows : List Byte) :
    (∃ c, c ∈ spriteCells x0 y0 row rows) ↔ ∃ b ∈ rows, b ≠ 0 := by
  induction rows generalizing row with
  | nil => simp [spriteCells]
  | cons b rows ih =>
    have hb : (∃ c, c ∈ (setColumns b).map (fun col => spriteCell x0 y0 col row)) ↔ b ≠ 0 := by
      rw [ne_eq, ← setColumns_eq_nil_iff, ← List.map_eq_nil_iff (f := fun col => spriteCell x0 y0 col row),
        List.eq_nil_iff_forall_not_mem, not_forall_not]
    simp only [spriteCells, List.mem_append, exists_or, hb, ih, List.exists_mem_cons_iff]

/-! ### One draw -/

theorem Framebuffer.cell_draw {fb : Framebuffer} {x0 y0 : Byte} {rows : List Byte} (h : rows.length ≤ 32) (x : Fin 64)
    (y : Fin 32) : (fb.draw x0 y0 rows).1.cell x y = (fb.cell x y ^^ decide ((x, y) ∈ spriteCells x0 y0 0 rows)) :=
  (fb.draw_spec x0 y0 rows h).1 x y

/-- The flag tells whether a touched cell was set (R123). -/
theorem Framebuffer.draw_flag_iff {fb : Framebuffer} {x0 y0 : Byte} {rows : List Byte} (h : rows.length ≤ 32) :
    (fb.draw x0 y0 rows).2 = true ↔ ∃ c ∈ spriteCells x0 y0 0 rows, fb.cell c.1 c.2 = true := by
  rw [(fb.draw_spec x0 y0 rows h).2, List.any_eq_true]

theorem Framebuffer.cell_draw_ne_iff {fb : Framebuffer} {x0 y0 : Byte} {rows : List Byte} (h : rows.length ≤ 32)
    (x : Fin 64) (y : Fin 32) :
    (fb.draw x0 y0 rows).1.cell x y ≠ fb.cell x y ↔ (x, y) ∈ spriteCells x0 y0 0 rows := by
  rw [Framebuffer.cell_draw h]
  cases fb.cell x y <;> simp

/-- A touched cell that was set is one the draw clears. -/
theorem Framebuffer.draw_flag_iff_cleared {fb : Framebuffer} {x0 y0 : Byte} {rows : List Byte} (h : rows.length ≤ 32) :
    (fb.draw x0 y0 rows).2 = true ↔
      ∃ x y, fb.cell x y = true ∧ (fb.draw x0 y0 rows).1.cell x y = false := by
  rw [Framebuffer.draw_flag_iff h]
  constructor
  · rintro ⟨⟨x, y⟩, hc, hset⟩
    exact ⟨x, y, hset, by simp [Framebuffer.cell_draw h, hc, hset]⟩
  · rintro ⟨x, y, hset, hclear⟩
    refine ⟨(x, y), (Framebuffer.cell_draw_ne_iff (fb := fb) h x y).mp ?_, hset⟩
    rw [hset, hclear]
    decide

theorem flagByte_eq_one_iff (c : Bool) : flagByte c = 1 ↔ c = true := by
  cases c <;> decide

theorem flagByte_zero_or_one (c : Bool) : flagByte c = 0 ∨ flagByte c = 1 := by
  cases c <;> decide

/-- An access inside memory is no fault. -/
theorem blockFault_eq_none {s : State} {n : Nat} (h : n = 0 ∨ s.addrI + n ≤ 0x1000) : blockFault s n = none := by
  rw [blockFault_eq, if_neg]
  rw [State.blockOutside_iff, ← State.addrI]
  omega

/-- Settles O15: the draw inverts the touched cells, reads its operands before it writes VF, and writes nothing else. -/
theorem drwTogglesTouchedCells : Obligations.DrwTogglesTouchedCells := by
  intro x y n s hin
  have hrows : (s.readBytes s.addrI n.toNat).length ≤ 32 := by
    have := n.isLt
    rw [State.length_readBytes]
    omega
  refine ⟨effect (.drw x y n) s, exec_of_noFault (blockFault_eq_none hin), rfl, fun cx cy => ?cells, ?flag01, ?flag,
    fun r hr => ?regs, rfl, fun _ => rfl⟩
  case cells => exact (Framebuffer.cell_draw_ne_iff hrows cx cy).trans (mem_spriteCells_readBytes s _ _ _ _ cx cy)
  case flag01 =>
    rw [effect, State.drawSprite, State.getV_setV, if_pos rfl]
    exact flagByte_zero_or_one _
  case flag =>
    rw [effect, State.drawSprite, State.getV_setV, if_pos rfl, flagByte_eq_one_iff]
    exact Framebuffer.draw_flag_iff_cleared hrows
  case regs => rw [effect, State.drawSprite, State.getV_setV, if_neg hr, State.getV_setFb, State.getV_advance]

/-- Settles O16: the two draws touch the same cells, and inverting a cell twice restores it. -/
theorem drawingTwiceRestores : Obligations.DrawingTwiceRestores := by
  intro fb x0 y0 rows hlen
  have hrows : rows.length ≤ 32 := hlen.trans (by decide)
  have hsecond : ((fb.draw x0 y0 rows).1.draw x0 y0 rows).2 = true ↔
      ∃ c ∈ spriteCells x0 y0 0 rows, fb.cell c.1 c.2 = false := by
    rw [Framebuffer.draw_flag_iff hrows]
    refine exists_congr fun c => and_congr_right fun hc => ?_
    rw [Framebuffer.cell_draw hrows, decide_eq_true hc, Bool.xor_true, Bool.not_eq_true']
  refine ⟨fun x y => ?cells, Framebuffer.draw_flag_iff hrows, hsecond, fun hclear => ⟨?first, ?clear⟩⟩
  case cells => rw [Framebuffer.cell_draw hrows, Framebuffer.cell_draw hrows, Bool.xor_assoc, Bool.xor_self, Bool.xor_false]
  case first =>
    rw [← Bool.not_eq_true, Framebuffer.draw_flag_iff hrows]
    rintro ⟨c, hc, hset⟩
    cases (hclear c hc).symm.trans hset
  case clear =>
    rw [hsecond, ← exists_mem_spriteCells_iff x0 y0 0 rows]
    exact exists_congr fun c => and_iff_left_of_imp (hclear c)

end Sys2Proof.Machine
end

section
/-! PROOFS. O17 to O21: returns, jumps and calls (42_control_flow.md R141 to R144). -/

namespace Sys2Proof.Machine

/-! ### Returns -/

/-- 00EE above the empty mark (R141). -/
theorem exec_ret {s : State} (h : 0 < s.ms.sp.val) : exec .ret s = .next s.advance.popPc :=
  exec_of_noFault (i := .ret) (if_neg h.ne')

/-- Settles O17: 00EE completes with the pop of the advanced state, which moves `SP` and `PC` alone. -/
theorem retPopsReturnAddress : Obligations.RetPopsReturnAddress := by
  intro s h
  obtain ⟨hsp, hpc, hframe⟩ := s.advance.popPc_spec h
  rw [State.advance_ms_sp] at hsp hpc
  refine ⟨s.advance.popPc, exec_ret h, ?sp, fun k hk => hpc k (hk.trans hsp), fun k => ?slots, fun r => ?regs, hframe,
    fun a => ?memory⟩
  case sp => rw [hsp, Nat.sub_add_cancel h]
  case slots => rw [State.slot, State.popPc_ms_stack, State.advance_ms_stack, State.slot]
  case regs => rw [State.getV_popPc, State.getV_advance]
  case memory => rw [State.readByte_popPc, State.readByte_advance]

/-! ### Jumps -/

theorem exec_jp (nnn : Addr) (s : State) :
    exec (.jp nnn) s = .next ((s.advance.markEndloop (decide (addrWord nnn = s.ms.pc))).jump (addrWord nnn)) := rfl

/-- Settles O18: the mark is set exactly where the target is the instruction's own address. -/
theorem jpJumpsAndMarksSelfLoop : Obligations.JpJumpsAndMarksSelfLoop := by
  intro nnn s
  refine ⟨_, exec_jp nnn s, addrWord_toNat nnn, fun h => ?own, fun h => ?other, fun r => ?regs, rfl, fun a => ?memory⟩
  case own =>
    rw [State.jump_ms_endloop, State.markEndloop_ms_endloop, decide_eq_true ((addrWord_eq_iff nnn _).mpr h), Bool.or_true]
  case other =>
    rw [State.jump_ms_endloop, State.markEndloop_ms_endloop, decide_eq_false (mt (addrWord_eq_iff nnn _).mp h),
      Bool.or_false, State.advance_ms_endloop]
  case regs => rw [State.getV_jump, State.getV_markEndloop, State.getV_advance]
  case memory => rw [State.readByte_jump, State.readByte_markEndloop, State.readByte_advance]

theorem exec_jpV0 (nnn : Addr) (s : State) :
    exec (.jpV0 nnn) s = .next (s.advance.jump (addrWord nnn + (s.getV 0).setWidth 16)) := rfl

/-- The target of BNNN does not wrap: it is at most 0x10FE (R144). -/
theorem jpV0_target_toNat (nnn : Addr) (b : Byte) : (addrWord nnn + b.setWidth 16).toNat = nnn.toNat + b.toNat := by
  have hn : nnn.toNat < 4096 := nnn.isLt
  have hb : b.toNat < 256 := b.isLt
  rw [BitVec.toNat_add, addrWord_toNat, BitVec.toNat_setWidth_of_le (by decide), Nat.mod_eq_of_lt (by omega)]

/-- Settles O21: BNNN completes with one write of `PC`, by a sum that does not wrap. -/
theorem jpV0AddsOffset : Obligations.JpV0AddsOffset := by
  intro nnn s
  refine ⟨wordA_toNat 0xB nnn, _, exec_jpV0 nnn s, jpV0_target_toNat nnn (s.getV 0), rfl, fun h => ?fetch, rfl,
    fun a => ?memory⟩
  case fetch =>
    rw [← Bool.not_eq_true, State.fetchable_iff]
    omega
  case memory => rw [State.readByte_jump, State.readByte_advance]

/-! ### Calls -/

/-- 2NNN below the full mark (R143). -/
theorem exec_call {nnn : Addr} {s : State} (h : s.ms.sp.val < 16) :
    exec (.call nnn) s = .next ((s.advance.push (s.ms.pc + 2)).jump (addrWord nnn)) :=
  exec_of_noFault (i := .call nnn) (if_neg h.ne)

/-- Settles O19: 2NNN completes with the push of the advanced `PC` and the jump. -/
theorem callPushesReturnAddress : Obligations.CallPushesReturnAddress := by
  intro nnn s h
  obtain ⟨hsp, hslots, hframe⟩ := s.advance.push_spec (s.ms.pc + 2) h
  refine ⟨_, exec_call h, addrWord_toNat nnn, hsp, hslots, fun r => ?regs, ?frame, fun a => ?memory⟩
  case regs => rw [State.getV_jump, State.getV_push, State.getV_advance]
  case frame =>
    rw [hframe]
    rfl
  case memory => rw [State.readByte_jump, State.readByte_push, State.readByte_advance]

/-- Settles O20: the slot the return pops is the one the call pushed. -/
theorem callThenRetReturns : Obligations.CallThenRetReturns := by
  intro nnn s t u hfree hcall hsp hstack
  obtain ⟨t', hcall', -, hsp', hslots, -, -, -⟩ := callPushesReturnAddress nnn s hfree
  obtain rfl : t' = t := Host.Outcome.next.inj (hcall'.symm.trans hcall)
  rw [← hsp] at hsp'
  have hused : 0 < u.ms.sp.val := by omega
  obtain ⟨v, hret, hv, hpc, -, -, -, -⟩ := retPopsReturnAddress u hused
  have hback : v.ms.sp.val = s.ms.sp.val := by omega
  have hslot := hpc ⟨s.ms.sp.val, hfree⟩ hback.symm
  have hpushed := hslots ⟨s.ms.sp.val, hfree⟩
  rw [State.slot, ← hstack, if_pos rfl] at hpushed
  exact ⟨v, hret, hslot.trans hpushed, Fin.ext hback⟩

end Sys2Proof.Machine
end

section
/-! PROOFS. O27 to O31, O33: the flag arithmetic, the random byte and the index add (43_register_alu.md sections 4 and 5,
44_index_memory.md R191). -/

namespace Sys2Proof.Machine

/-! ### The flag write followed by the result write (R151, D13) -/

theorem State.onlyPcRegs_advance_flagThenWrite (s : State) (flag : Byte) (x : Reg) (result : State → Byte) :
    OnlyPcRegs s (s.advance.flagThenWrite flag x result) :=
  ⟨rfl, fun a => by rw [State.flagThenWrite, State.readByte_setV, State.readByte_setV, State.readByte_advance]⟩

/-- A register as the flag write left it. -/
theorem State.getV_advance_setVf (s : State) (flag : Byte) (r : Reg) :
    (s.advance.setV vf flag).getV r = if r = vf then flag else s.getV r := by
  rw [State.getV_setV, State.getV_advance]

/-- What every instruction that writes a flag and then a result does. -/
theorem exec_flag_spec {i : Instr} {s : State} {flag : Byte} {x : Reg} {result : State → Byte}
    (h : exec i s = .next (s.advance.flagThenWrite flag x result)) :
    ∃ t, exec i s = .next t ∧ t.ms.pc = s.ms.pc + 2 ∧ OnlyPcRegs s t ∧
      (∀ r, r ≠ x → t.getV r = if r = vf then flag else s.getV r) ∧
      t.getV x = result (s.advance.setV vf flag) := by
  refine ⟨_, h, rfl, s.onlyPcRegs_advance_flagThenWrite flag x result, fun r hr => ?others, ?result⟩
  case others => rw [State.getV_flagThenWrite, if_neg hr, State.getV_advance]
  case result => rw [State.getV_flagThenWrite, if_pos rfl]

/-! ### The five instructions -/

theorem exec_addReg (x y : Reg) (s : State) :
    exec (.addReg x y) s =
      .next (s.advance.flagThenWrite (carryFlag (s.getV x) (s.getV y)) x fun t => t.getV x + t.getV y) := rfl

theorem exec_sub (x y : Reg) (s : State) :
    exec (.sub x y) s =
      .next (s.advance.flagThenWrite (greaterFlag (s.getV x) (s.getV y)) x fun t => t.getV x - t.getV y) := rfl

theorem exec_subn (x y : Reg) (s : State) :
    exec (.subn x y) s =
      .next (s.advance.flagThenWrite (greaterFlag (s.getV y) (s.getV x)) x fun t => t.getV y - t.getV x) := rfl

theorem exec_shr (x y : Reg) (s : State) :
    exec (.shr x y) s = .next (s.advance.flagThenWrite (lowBitFlag (s.getV x)) x fun t => t.getV x >>> 1) := rfl

theorem exec_shl (x y : Reg) (s : State) :
    exec (.shl x y) s = .next (s.advance.flagThenWrite (highBitFlag (s.getV x)) x fun t => t.getV x <<< 1) := rfl

/-! ### The flags as numbers -/

theorem carryFlag_eq (a b : Byte) : carryFlag a b = if 255 < a.toNat + b.toNat then 1 else 0 := by
  simp only [carryFlag, flagByte, decide_eq_true_eq]

theorem carryFlag_toNat (a b : Byte) : (carryFlag a b).toNat = (a.toNat + b.toNat) / 256 := by
  have ha : a.toNat < 256 := a.isLt
  have hb : b.toNat < 256 := b.isLt
  rw [carryFlag_eq]
  split
  · show 1 = _
    omega
  · show 0 = _
    omega

theorem greaterFlag_eq (a b : Byte) : greaterFlag a b = if b.toNat < a.toNat then 1 else 0 := by
  simp only [greaterFlag, flagByte, decide_eq_true_eq]

theorem lowBitFlag_toNat (a : Byte) : (lowBitFlag a).toNat = a.toNat % 2 := by
  rw [lowBitFlag, BitVec.toNat_and]
  exact Nat.and_one_is_mod _

theorem highBitFlag_toNat (a : Byte) : (highBitFlag a).toNat = a.toNat / 128 := by
  rw [highBitFlag, BitVec.toNat_ushiftRight, Nat.shiftRight_eq_div_pow]

theorem toNat_sub_eq (a b : Byte) : (a - b).toNat = (a.toNat + 256 - b.toNat) % 256 := by
  have hb : b.toNat < 256 := b.isLt
  rw [BitVec.toNat_sub]
  omega

theorem toNat_shiftRight_one (a : Byte) : (a >>> 1).toNat = a.toNat / 2 := by
  rw [BitVec.toNat_ushiftRight, Nat.shiftRight_eq_div_pow, pow_one]

theorem toNat_shiftLeft_one (a : Byte) : (a <<< 1).toNat = 2 * a.toNat % 256 := by
  rw [BitVec.toNat_shiftLeft, Nat.shiftLeft_eq, pow_one, Nat.mul_comm]

/-! ### The statements of one instruction or two -/

/-- Settles O27: the carry is the quotient of the exact sum by 256. -/
theorem addRegCarriesIntoVf : Obligations.AddRegCarriesIntoVf := by
  intro x y s
  obtain ⟨t, ht, hpc, hframe, hothers, hx⟩ := exec_flag_spec (exec_addReg x y s)
  refine ⟨wordXYN_8_toNat x y 0x4, t, ht, hpc, hframe, _, carryFlag_toNat _ _, hothers, ?_⟩
  rw [hx, State.getV_advance_setVf, State.getV_advance_setVf, BitVec.toNat_add]

/-- What a flag-writing subtraction of register `b` from register `a` into `x` does. -/
theorem exec_subtract_spec {i : Instr} {s : State} {x a b : Reg}
    (h : exec i s = .next (s.advance.flagThenWrite (greaterFlag (s.getV a) (s.getV b)) x fun t => t.getV a - t.getV b)) :
    ∃ t, exec i s = .next t ∧ t.ms.pc = s.ms.pc + 2 ∧ OnlyPcRegs s t ∧
      ∃ c : Byte, c = (if (s.getV b).toNat < (s.getV a).toNat then 1 else 0) ∧
        (∀ r, r ≠ x → t.getV r = if r = vf then c else s.getV r) ∧
        (t.getV x).toNat =
          ((if a = vf then c else s.getV a).toNat + 256 - (if b = vf then c else s.getV b).toNat) % 256 := by
  obtain ⟨t, ht, hpc, hframe, hothers, hx⟩ := exec_flag_spec h
  refine ⟨t, ht, hpc, hframe, _, greaterFlag_eq _ _, hothers, ?_⟩
  rw [hx, State.getV_advance_setVf, State.getV_advance_setVf, toNat_sub_eq]

/-- Settles O28: 8XY5 and 8XY7 are the same subtraction with the operands exchanged. -/
theorem subtractionsSetNoBorrow : Obligations.SubtractionsSetNoBorrow := fun x y s =>
  ⟨wordXYN_8_toNat x y 0x5, wordXYN_8_toNat x y 0x7, exec_subtract_spec (exec_sub x y s),
    exec_subtract_spec (exec_subn x y s)⟩

/-- Settles O29: the shifts read `V[X]` alone, so the Y field changes nothing. -/
theorem shiftsMoveOneBit : Obligations.ShiftsMoveOneBit := by
  intro x y s
  refine ⟨wordXYN_8_toNat x y 0x6, wordXYN_8_toNat x y 0xE, ?right, ?left⟩
  case right =>
    obtain ⟨t, ht, hpc, hframe, hothers, hx⟩ := exec_flag_spec (exec_shr x y s)
    refine ⟨t, ht, hpc, hframe, ht, _, lowBitFlag_toNat _, hothers, ?_⟩
    rw [hx, State.getV_advance_setVf, toNat_shiftRight_one]
  case left =>
    obtain ⟨t, ht, hpc, hframe, hothers, hx⟩ := exec_flag_spec (exec_shl x y s)
    refine ⟨t, ht, hpc, hframe, ht, _, highBitFlag_toNat _, hothers, ?_⟩
    rw [hx, State.getV_advance_setVf, toNat_shiftLeft_one]

/-! ### `VF` as an operand (43_register_alu.md section 4, the derived table) -/

/-- A flag-writing instruction with destination `VF`: the result, read after the flag write, is what stays. -/
theorem exec_flag_into_vf {i : Instr} {s : State} {flag : Byte} {result : State → Byte}
    (h : exec i s = .next (s.advance.flagThenWrite flag vf result)) :
    ∃ t, exec i s = .next t ∧ t.getV vf = result (s.advance.setV vf flag) := by
  obtain ⟨t, ht, -, -, -, hx⟩ := exec_flag_spec h
  exact ⟨t, ht, hx⟩

/-- A flag-writing instruction with another destination: `VF` ends as the flag. -/
theorem exec_flag_beside_vf {i : Instr} {s : State} {flag : Byte} {x : Reg} {result : State → Byte} (hx : x ≠ vf)
    (h : exec i s = .next (s.advance.flagThenWrite flag x result)) :
    ∃ t, exec i s = .next t ∧ t.getV x = result (s.advance.setV vf flag) ∧ t.getV vf = flag := by
  obtain ⟨t, ht, -, -, hothers, hres⟩ := exec_flag_spec h
  exact ⟨t, ht, hres, (hothers vf hx.symm).trans (if_pos rfl)⟩

/-- Twice the bit shifted out of a byte, which is also twice the carry of its double. -/
theorem double_highBit (a : Byte) :
    highBitFlag a <<< 1 = (if 127 < a.toNat then 2 else 0) ∧
      carryFlag a a + carryFlag a a = if 127 < a.toNat then 2 else 0 := by
  have ha : a.toNat < 256 := a.isLt
  have hcarry : 255 < a.toNat + a.toNat ↔ 127 < a.toNat := by omega
  have hhigh : highBitFlag a = if 127 < a.toNat then 1 else 0 := by
    apply BitVec.eq_of_toNat_eq
    rw [highBitFlag_toNat]
    split
    · show _ = 1
      omega
    · show _ = 0
      omega
  rw [hhigh, carryFlag_eq, if_congr hcarry rfl rfl]
  split <;> decide

theorem lowBitFlag_shiftRight (a : Byte) : lowBitFlag a >>> 1 = 0 := by
  apply BitVec.eq_of_toNat_eq
  rw [toNat_shiftRight_one, lowBitFlag_toNat]
  show _ = 0
  omega

/-- Settles O30: each row is the flag write read back, or overwritten, by the result write. -/
theorem flagAliasTable : Obligations.FlagAliasTable := by
  intro x y s hx hy
  refine ⟨?addTo, ?addFrom, ?addBoth, ?subTo, ?subFrom, ?subBoth, ?subnTo, ?subnFrom, ?subnBoth, fun z => ?shrTo,
    fun z => ?shlTo, ?shr, ?shl⟩
  case addTo =>
    obtain ⟨t, ht, hvf⟩ := exec_flag_into_vf (exec_addReg vf y s)
    refine ⟨t, ht, hvf.trans ?_⟩
    rw [State.getV_advance_setVf, State.getV_advance_setVf, if_pos rfl, if_neg hy, carryFlag_eq]
  case addFrom =>
    obtain ⟨t, ht, hres, hvf⟩ := exec_flag_beside_vf hx (exec_addReg x vf s)
    refine ⟨t, ht, hres.trans ?_, hvf.trans (carryFlag_eq _ _)⟩
    rw [State.getV_advance_setVf, State.getV_advance_setVf, if_pos rfl, if_neg hx, hvf]
  case addBoth =>
    obtain ⟨t, ht, hvf⟩ := exec_flag_into_vf (exec_addReg vf vf s)
    refine ⟨t, ht, hvf.trans ?_⟩
    rw [State.getV_advance_setVf, if_pos rfl, (double_highBit _).2]
  case subTo =>
    obtain ⟨t, ht, hvf⟩ := exec_flag_into_vf (exec_sub vf y s)
    refine ⟨t, ht, hvf.trans ?_⟩
    rw [State.getV_advance_setVf, State.getV_advance_setVf, if_pos rfl, if_neg hy, greaterFlag_eq]
  case subFrom =>
    obtain ⟨t, ht, hres, hvf⟩ := exec_flag_beside_vf hx (exec_sub x vf s)
    refine ⟨t, ht, hres.trans ?_, hvf.trans (greaterFlag_eq _ _)⟩
    rw [State.getV_advance_setVf, State.getV_advance_setVf, if_pos rfl, if_neg hx, hvf]
  case subBoth =>
    obtain ⟨t, ht, hvf⟩ := exec_flag_into_vf (exec_sub vf vf s)
    exact ⟨t, ht, hvf.trans (BitVec.sub_self _)⟩
  case subnTo =>
    obtain ⟨t, ht, hvf⟩ := exec_flag_into_vf (exec_subn vf y s)
    refine ⟨t, ht, hvf.trans ?_⟩
    rw [State.getV_advance_setVf, State.getV_advance_setVf, if_pos rfl, if_neg hy, greaterFlag_eq]
  case subnFrom =>
    obtain ⟨t, ht, hres, hvf⟩ := exec_flag_beside_vf hx (exec_subn x vf s)
    refine ⟨t, ht, hres.trans ?_, hvf.trans (greaterFlag_eq _ _)⟩
    rw [State.getV_advance_setVf, State.getV_advance_setVf, if_pos rfl, if_neg hx, hvf]
  case subnBoth =>
    obtain ⟨t, ht, hvf⟩ := exec_flag_into_vf (exec_subn vf vf s)
    exact ⟨t, ht, hvf.trans (BitVec.sub_self _)⟩
  case shrTo =>
    obtain ⟨t, ht, hvf⟩ := exec_flag_into_vf (exec_shr vf z s)
    refine ⟨t, ht, hvf.trans ?_⟩
    rw [State.getV_advance_setVf, if_pos rfl, lowBitFlag_shiftRight]
  case shlTo =>
    obtain ⟨t, ht, hvf⟩ := exec_flag_into_vf (exec_shl vf z s)
    refine ⟨t, ht, hvf.trans ?_⟩
    rw [State.getV_advance_setVf, if_pos rfl, (double_highBit _).1]
  case shr =>
    obtain ⟨t, ht, hres, hvf⟩ := exec_flag_beside_vf hx (exec_shr x vf s)
    refine ⟨t, ht, hres.trans ?_, hvf⟩
    rw [State.getV_advance_setVf, if_neg hx]
  case shl =>
    obtain ⟨t, ht, hres, hvf⟩ := exec_flag_beside_vf hx (exec_shl x vf s)
    refine ⟨t, ht, hres.trans ?_, hvf⟩
    rw [State.getV_advance_setVf, if_neg hx]

/-! ### The random byte and the index add -/

theorem exec_rnd (x : Reg) (kk : Byte) (s : State) :
    exec (.rnd x kk) s = .next (s.advance.drawTaken.setV x (Config.rand8 s.draws &&& kk)) := rfl

/-- Settles O31: CXKK completes with one draw taken and one register written. -/
theorem rndMasksOneDraw : Obligations.RndMasksOneDraw := by
  intro x kk s
  have hx : (s.advance.drawTaken.setV x (Config.rand8 s.draws &&& kk)).getV x = Config.rand8 s.draws &&& kk := by
    rw [State.getV_setV, if_pos rfl]
  refine ⟨_, exec_rnd x kk s, rfl, hx, fun k hk => ?masked, fun r hr => ?others, rfl, rfl, fun a => ?memory⟩
  case masked => rw [hx, BitVec.getLsbD_and, hk, Bool.and_false]
  case others => rw [State.getV_setV, if_neg hr, State.getV_drawTaken, State.getV_advance]
  case memory => rw [State.readByte_setV, State.readByte_drawTaken, State.readByte_advance]

theorem exec_addIVx (x : Reg) (s : State) :
    exec (.addIVx x) s = .next (s.advance.setI (s.ms.i + (s.getV x).setWidth 16)) := rfl

/-- Settles O33: FX1E completes with one write of `I`, by the 16-bit sum. -/
theorem addIWrapsWithoutFlag : Obligations.AddIWrapsWithoutFlag := by
  intro x s
  obtain ⟨t, ht, hpc, hi, hregs, hframe⟩ := exec_index_spec (exec_addIVx x s)
  refine ⟨t, ht, hpc, ?_, hregs, hframe⟩
  rw [hi, BitVec.toNat_add, BitVec.toNat_setWidth_of_le (by decide)]

end Sys2Proof.Machine
end

section
/-! PROOFS. O34 to O36: the memory instructions (44_index_memory.md R193 to R195). -/

namespace Sys2Proof.Machine

/-! ### The pre-increment followed by a block store or load -/

theorem exec_ldBVx {x : Reg} {s : State} (h : s.addrI + 2 ≤ 0xFFF) :
    exec (.ldBVx x) s = .next (s.advance.writeBytes s.addrI (bcdDigits (s.getV x))) :=
  exec_of_noFault (i := .ldBVx x) (blockFault_eq_none (.inr (by omega)))

theorem exec_ldMemVx {x : Reg} {s : State} (h : s.addrI + x.val ≤ 0xFFF) :
    exec (.ldMemVx x) s = .next (s.advance.writeBytes s.addrI (s.regBlock x)) :=
  exec_of_noFault (i := .ldMemVx x) (blockFault_eq_none (.inr (by omega)))

theorem exec_ldVxMem {x : Reg} {s : State} (h : s.addrI + x.val ≤ 0xFFF) :
    exec (.ldVxMem x) s = .next (s.advance.loadV x (s.readBytes s.addrI (blockLen x))) :=
  exec_of_noFault (i := .ldVxMem x) (blockFault_eq_none (.inr (by omega)))

/-- A block store after the advance writes its own bytes and `PC` alone. -/
theorem State.onlyPcBytes_advance_writeBytes (s : State) (a : Nat) (bs : List Byte) :
    OnlyPcBytes s (s.advance.writeBytes a bs) a bs.length :=
  ⟨rfl, fun b hb => by rw [State.readByte_writeBytes_outside _ _ _ _ hb, State.readByte_advance]⟩

/-- A byte of a block store after the advance. -/
theorem State.readByte_advance_writeBytes {s : State} {a k : Nat} {bs : List Byte} (hs : s.memoryOk) (hk : k < bs.length) :
    (s.advance.writeBytes a bs).readByte (a + k) = bs[k] := by
  obtain ⟨⟨hsorted, -⟩, -⟩ := hs
  exact State.readByte_writeBytes_inside _ _ _ _ hsorted hk

/-! ### The decimal digits -/

/-- A decimal digit of a byte fits in a byte. -/
theorem ofNat_toNat_of_le {n : Nat} (h : n ≤ 255) : (BitVec.ofNat 8 n).toNat = n := by
  rw [BitVec.toNat_ofNat, Nat.mod_eq_of_lt (by omega)]

/-- Settles O34: inside memory the three digits are stored and read back; outside, the check raises its error. -/
theorem bcdStoresThreeDigits : Obligations.BcdStoresThreeDigits := by
  intro x s
  have hv : (s.getV x).toNat < 256 := (s.getV x).isLt
  refine ⟨wordXK_F_toNat x 0x33, fun hout => ?fault, fun hmem hin => ?store⟩
  case fault =>
    refine exec_of_fault (i := .ldBVx x) ?_
    have hblock : s.blockOutside 3 = true := (s.blockOutside_iff 3).mpr ⟨by decide, by rw [← State.addrI]; omega⟩
    exact (blockFault_eq s 3).trans (if_pos hblock)
  case store =>
    have hread : ∀ k (hk : k < 3), (s.advance.writeBytes s.addrI (bcdDigits (s.getV x))).readByte (s.addrI + k) =
        (bcdDigits (s.getV x))[k] := fun k hk => State.readByte_advance_writeBytes hmem hk
    refine ⟨_, exec_ldBVx hin, rfl, ?hundreds, ?tens, ?ones, s.onlyPcBytes_advance_writeBytes s.addrI _⟩
    case hundreds => exact (congrArg BitVec.toNat (hread 0 (by decide))).trans (ofNat_toNat_of_le (by omega))
    case tens => exact (congrArg BitVec.toNat (hread 1 (by decide))).trans (ofNat_toNat_of_le (by omega))
    case ones => exact (congrArg BitVec.toNat (hread 2 (by decide))).trans (ofNat_toNat_of_le (by omega))

/-! ### The register block -/

/-- Settles O35: the stored block is `V[0]` to `V[X]`, and it is read back byte by byte. -/
theorem storeRegsWritesBlock : Obligations.StoreRegsWritesBlock := by
  intro x s hmem hin
  have hframe := s.onlyPcBytes_advance_writeBytes s.addrI (s.regBlock x)
  rw [State.length_regBlock] at hframe
  refine ⟨_, exec_ldMemVx hin, rfl, fun k hk => ?_, hframe⟩
  have hlen : k.val < (s.regBlock x).length := by
    rw [State.length_regBlock]
    omega
  rw [State.readByte_advance_writeBytes hmem hlen, State.getElem_regBlock]

/-- Settles O36: the loaded block is the bytes from `I` on, and it reaches `V[X]`. -/
theorem loadRegsReadsBlock : Obligations.LoadRegsReadsBlock := by
  intro x s hin
  refine ⟨_, exec_ldVxMem hin, State.loadV_ms_pc _ _ _, fun k => ?regs, rfl, fun a => ?memory⟩
  case regs =>
    rw [State.getV_loadV, State.getV_advance]
    refine ite_congr rfl (fun hk => ?_) (fun _ => rfl)
    have hlen : k.val < (s.readBytes s.addrI (blockLen x)).length := by
      rw [State.length_readBytes, blockLen]
      omega
    rw [List.getD_eq_getElem _ _ hlen, State.getElem_readBytes]
  case memory => rw [State.readByte_loadV, State.readByte_advance]

end Sys2Proof.Machine
end

section
/-! PROOFS. O37, O40 to O42: the keys and the key events (45_timers_keys.md sections 1 and 4). -/

namespace Sys2Proof.Machine

/-! ### EX9E and EXA1 -/

theorem keyFault_eq_none {s : State} {x : Reg} {k : Key} (h : (s.getV x).toNat = k.val) : keyFault s x = none := by
  have hk := k.isLt
  rw [keyFault_eq, if_neg]
  rw [State.keyOutside_iff]
  omega

theorem State.keyPressed_eq {s : State} {x : Reg} {k : Key} (h : (s.getV x).toNat = k.val) :
    s.keyPressed x = s.keys.get k := by
  rw [State.keyPressed, h, Fin.ofNat_val_eq_self]

theorem exec_skp {s : State} {x : Reg} {k : Key} (h : (s.getV x).toNat = k.val) :
    exec (.skp x) s = .next (s.advance.skipIf (s.keys.get k)) := by
  rw [exec_of_noFault (i := .skp x) (keyFault_eq_none h), effect, State.keyPressed_eq h]

theorem exec_sknp {s : State} {x : Reg} {k : Key} (h : (s.getV x).toNat = k.val) :
    exec (.sknp x) s = .next (s.advance.skipIf (!s.keys.get k)) := by
  rw [exec_of_noFault (i := .sknp x) (keyFault_eq_none h), effect, State.keyPressed_eq h]

/-- Settles O37: EX9E skips on the key's state, EXA1 on its negation. -/
theorem skipOnKey : Obligations.SkipOnKey := by
  intro x k s h
  refine ⟨exec_skip_spec (exec_skp h), ?_⟩
  simpa only [Bool.not_eq_true', ← Bool.not_eq_true, ite_not] using exec_skip_spec (exec_sknp h)

/-! ### Key events -/

theorem State.keyDown_of_some {s : State} {h : HostKey} {k : Key} (hk : keyOf s.cfg.keymap h = some k) :
    s.keyDown h = (s.setKey k true).resolveWait k := by
  simp only [State.keyDown, hk]

theorem State.keyDown_of_none {s : State} {h : HostKey} (hk : keyOf s.cfg.keymap h = none) : s.keyDown h = s := by
  simp only [State.keyDown, hk]

theorem State.keyUp_of_some {s : State} {h : HostKey} {k : Key} (hk : keyOf s.cfg.keymap h = some k) :
    s.keyUp h = s.setKey k false := by
  simp only [State.keyUp, hk]

theorem State.keyUp_of_none {s : State} {h : HostKey} (hk : keyOf s.cfg.keymap h = none) : s.keyUp h = s := by
  simp only [State.keyUp, hk]

@[simp] theorem State.resolveWait_keys (s : State) (k : Key) : (s.resolveWait k).keys = s.keys := by
  cases hw : s.wait with
  | idle => rw [State.resolveWait_idle s k hw]
  | waiting r => rw [State.resolveWait_waiting s k r hw, State.setV_keys]

theorem keyByte_toNat (k : Key) : (keyByte k).toNat = k.val :=
  ofNat_toNat_of_le (k.isLt.le.trans (by decide))

/-- Settles O40: the press sets its key and then resolves the wait, which writes the awaited register alone. -/
theorem keyDownResolvesWait : Obligations.KeyDownResolvesWait := by
  intro s h k hk
  rw [State.keyDown_of_some hk]
  refine ⟨fun j => ?keys, State.resolveWait_wait _ k, fun r hr => ?awaited, fun hidle => ?idle, ?frame⟩
  case keys => rw [State.resolveWait_keys, State.get_setKey]
  case awaited =>
    have hres := State.resolveWait_waiting (s.setKey k true) k r hr
    have hreg : ∀ q, ((s.setKey k true).resolveWait k).getV q = if q = r then keyByte k else s.getV q := by
      rw [hres]
      exact fun q => State.getV_setV (s.setKey k true) r q (keyByte k)
    exact ⟨by rw [hreg, if_pos rfl, keyByte_toNat], fun q hq => by rw [hreg, if_neg hq]⟩
  case idle =>
    rw [State.resolveWait_idle (s.setKey k true) k hidle]
    rfl
  case frame =>
    cases hw : s.wait with
    | idle =>
      rw [State.resolveWait_idle (s.setKey k true) k hw, ← hw]
      rfl
    | waiting r =>
      rw [State.resolveWait_waiting (s.setKey k true) k r hw]
      rfl

/-- EX9E and EXA1 neither read nor write the wait. -/
theorem exec_skipOnKey_wait (s : State) (w : Wait) (x : Reg) :
    exec (.skp x) { s with wait := w } = mapNext (fun t => { t with wait := w }) (exec (.skp x) s) ∧
      exec (.sknp x) { s with wait := w } = mapNext (fun t => { t with wait := w }) (exec (.sknp x) s) := by
  have hskip : ∀ c : Bool, { s with wait := w }.advance.skipIf c = { s.advance.skipIf c with wait := w } := fun c => by
    rw [State.skipIf_eq, State.skipIf_eq]
    rfl
  exact ⟨ite_next_eq_mapNext (fun t => { t with wait := w }) _ rfl (hskip _),
    ite_next_eq_mapNext (fun t => { t with wait := w }) _ rfl (hskip _)⟩

/-- Settles O41: a release writes the latch alone, and neither it nor a press reads the wait for what it writes there. -/
theorem keyUpNeverAffectsWait : Obligations.KeyUpNeverAffectsWait := by
  intro s h w x
  obtain ⟨hskp, hsknp⟩ := exec_skipOnKey_wait s w x
  refine ⟨fun k hk => ⟨fun j => ?up, s.keyUp_frame h⟩, fun hk => ⟨State.keyUp_of_none hk, State.keyDown_of_none hk⟩,
    s.keyUp_wait h, ?upKeys, ?downKeys, hskp, hsknp⟩
  case up => rw [State.keyUp_of_some hk, State.get_setKey]
  all_goals cases hk : keyOf s.cfg.keymap h
  case upKeys.none => rw [State.keyUp_of_none hk, State.keyUp_of_none (s := { s with wait := w }) hk]
  case upKeys.some k =>
    rw [State.keyUp_of_some hk, State.keyUp_of_some (s := { s with wait := w }) hk]
    rfl
  case downKeys.none => rw [State.keyDown_of_none hk, State.keyDown_of_none (s := { s with wait := w }) hk]
  case downKeys.some k =>
    rw [State.keyDown_of_some hk, State.keyDown_of_some (s := { s with wait := w }) hk, State.resolveWait_keys,
      State.resolveWait_keys]
    rfl

/-! ### The matching of host codes (R224) -/

section
variable {K : Type} [DecidableEq K] {keymap : Vector K 16} {h : K}

theorem mem_allKeys (k : Key) : k ∈ allKeys := by
  fin_cases k <;> decide

theorem pairwise_allKeys : allKeys.Pairwise (· < ·) := by decide

theorem keyOf_eq_none_iff : keyOf keymap h = none ↔ ∀ j, keymap.get j ≠ h := by
  simp only [keyOf, List.find?_eq_none, decide_eq_true_eq, mem_allKeys, forall_const, ne_eq]

theorem get_keyOf {k : Key} (hk : keyOf keymap h = some k) : keymap.get k = h :=
  of_decide_eq_true (List.find?_eq_some_iff_append.mp hk).1

/-- The indices are searched in rising order. -/
theorem keyOf_lowest {j k : Key} (hk : keyOf keymap h = some k) (hj : j.val < k.val) : keymap.get j ≠ h := by
  obtain ⟨-, before, after, hsplit, hbefore⟩ := List.find?_eq_some_iff_append.mp hk
  have hsorted := pairwise_allKeys
  have hmem := mem_allKeys j
  rw [hsplit, List.pairwise_append] at hsorted
  rw [hsplit, List.mem_append, List.mem_cons] at hmem
  obtain ⟨-, htail, -⟩ := hsorted
  obtain hmem | rfl | hmem := hmem
  · simpa using hbefore j hmem
  · exact absurd hj (Nat.lt_irrefl _)
  · exact absurd hj (Nat.lt_asymm (List.rel_of_pairwise_cons htail hmem))

/-- A code matches the lowest index whose entry it is. -/
theorem keyOf_eq_some_iff {k : Key} :
    keyOf keymap h = some k ↔ keymap.get k = h ∧ ∀ j, j.val < k.val → keymap.get j ≠ h := by
  refine ⟨fun hk => ⟨get_keyOf hk, fun j => keyOf_lowest hk⟩, fun ⟨hkey, hlow⟩ => ?_⟩
  cases hj : keyOf keymap h with
  | none => exact absurd hkey (keyOf_eq_none_iff.mp hj k)
  | some j =>
    have hle : k.val ≤ j.val := Nat.le_of_not_lt fun hlt => hlow j hlt (get_keyOf hj)
    have hge : j.val ≤ k.val := Nat.le_of_not_lt fun hlt => keyOf_lowest hj hlt hkey
    rw [Fin.ext (hge.antisymm hle)]

theorem heldCode_of_some {k : Key} (hk : keyOf keymap h = some k) : heldCode keymap h = k.val := by
  simp only [heldCode, hk]

theorem heldCode_of_none (hk : keyOf keymap h = none) : heldCode keymap h = 16 := by
  simp only [heldCode, hk]

/-- The number of an entry is at most its index, hence no 16. -/
theorem heldCode_entry_le (j : Key) : heldCode keymap (keymap.get j) ≤ j.val := by
  cases hk : keyOf keymap (keymap.get j) with
  | none => exact absurd rfl (keyOf_eq_none_iff.mp hk j)
  | some k =>
    rw [heldCode_of_some hk]
    exact Nat.le_of_not_lt fun hlt => keyOf_lowest hk hlt rfl

/-- In the machine's key map the number of a code matches the key that the code matches in the host's (log 6). -/
theorem keyOf_heldKeymap : keyOf (heldKeymap keymap) (heldCode keymap h) = keyOf keymap h := by
  cases hk : keyOf keymap h with
  | none =>
    rw [heldCode_of_none hk, keyOf_eq_none_iff]
    intro j
    rw [heldKeymap_get]
    exact (Nat.lt_of_le_of_lt (heldCode_entry_le j) j.isLt).ne
  | some k =>
    rw [heldCode_of_some hk, keyOf_eq_some_iff]
    refine ⟨?_, fun j hj => ?_⟩
    · rw [heldKeymap_get, get_keyOf hk, heldCode_of_some hk]
    · rw [heldKeymap_get]
      exact (Nat.lt_of_le_of_lt (heldCode_entry_le j) hj).ne

end

/-- Settles O42: the search finds the lowest index, and it finds the same one among the machine's numbers. -/
theorem lowestMatchingKeyWins : Obligations.LowestMatchingKeyWins := by
  intro K _ keymap h
  refine ⟨fun k => keyOf_eq_some_iff, keyOf_eq_none_iff, keyOf_heldKeymap, fun s hs => ⟨fun k hk => ?_, fun hk => ?_, rfl⟩⟩
  all_goals rw [← keyOf_heldKeymap, ← hs] at hk
  · exact ⟨State.keyDown_of_some hk, State.keyUp_of_some hk⟩
  · exact ⟨State.keyDown_of_none hk, State.keyUp_of_none hk⟩

end Sys2Proof.Machine
end

section
/-! PROOFS. O6 to O10, O13: the fetch and the instruction tick (40_execution_cycle.md). -/

namespace Sys2Proof.Machine

/-! ### The fetch -/

/-- Settles O6: the word is the two bytes put together, the one at `PC` first. -/
theorem fetchIsBigEndian : Obligations.FetchIsBigEndian := by
  intro s
  rw [State.fetchWord, wordOfBytes, append_toNat, Nat.mul_comm]
  rfl

/-- The instruction at `PC` is what the decoder reads from the two bytes there (R70, R75). -/
theorem decodeBytes_at_pc (s : State) : decodeBytes (s.readBytes s.ms.pc.toNat 2) = .ok (s.fetched, []) := rfl

/-! ### Steps at S3 -/

/-- A tick that may not execute moves on to S4 (R100, R101). -/
theorem State.subStep3_of_blocked {s : State} (h : s.pausedSeen = true ∨ s.wait ≠ .idle) :
    s.subStep3 = .next { s with phase := .s4 } := by
  refine if_neg fun hm => ?_
  obtain ⟨hseen, hwait⟩ := s.mayExecute_iff.mp hm
  obtain h | h := h
  · cases h.symm.trans hseen
  · exact h hwait

/-- A tick that may execute is the instruction step. -/
theorem State.subStep3_of_free {s : State} (hseen : s.pausedSeen = false) (hwait : s.wait = .idle) :
    s.subStep3 = s.instrStep :=
  if_pos (s.mayExecute_iff.mpr ⟨hseen, hwait⟩)

theorem State.instrStep_of_le {s : State} (h : s.ms.pc.toNat ≤ 0xFFE) :
    s.instrStep = mapNext (State.retire s.line) (exec s.fetched s) :=
  if_pos (s.fetchable_iff.mpr h)

theorem State.instrStep_of_lt {s : State} (h : 0xFFE < s.ms.pc.toNat) :
    s.instrStep = .next (s.raise .fetchOutOfRange none (.pc s.ms.pc.toNat)) :=
  if_neg (mt s.fetchable_iff.mp (Nat.not_le.mpr h))

theorem State.retire_eq (l : TraceLine) (t : State) :
    t.retire l = if t.runState = .running then { t.publish l with phase := .s4 } else t :=
  if_congr t.isRunning_iff rfl rfl

theorem step_blocked {s : State} {rest : List Turn} (h : s.atTick rest) (hb : s.pausedSeen = true ∨ s.wait ≠ .idle) :
    step s = .next { s with turns := rest, phase := .s4 } :=
  (step_s3 h.1 h.2).trans (State.subStep3_of_blocked (s := { s with turns := rest }) hb)

theorem step_executing {s : State} {rest : List Turn} (h : s.atTick rest) (hseen : s.pausedSeen = false)
    (hwait : s.wait = .idle) : step s = State.instrStep { s with turns := rest } :=
  (step_s3 h.1 h.2).trans (State.subStep3_of_free (s := { s with turns := rest }) hseen hwait)

/-- The step of a ready machine is the decoded instruction, retired. -/
theorem step_of_ready {s : State} {rest : List Turn} (h : s.ready rest) :
    step s = mapNext (State.retire s.line) (exec s.fetched { s with turns := rest }) := by
  obtain ⟨ht, hseen, hwait, hpc⟩ := h
  rw [step_executing ht hseen hwait]
  exact State.instrStep_of_le (s := { s with turns := rest }) hpc

/-- Settles O7: the bytes at `PC` decode to the fetched instruction, and a running machine retires it by publishing. -/
theorem stepRunsFetchedInstruction : Obligations.StepRunsFetchedInstruction := by
  intro s t rest i hready hdecode hwf hexec
  rw [decodeBytes_at_pc] at hdecode
  obtain ⟨rfl, -⟩ := Prod.mk.inj (Except.ok.inj hdecode)
  rw [step_of_ready hready, hexec, mapNext, State.retire_eq]
  rfl

theorem State.placeWord_of_le {s : State} (w : Word) (h : s.ms.pc.toNat ≤ 0xFFE) :
    s.placeWord w = s.writeBytes s.ms.pc.toNat (bytesOfWord w) :=
  if_pos (s.fetchable_iff.mpr h)

/-- Settles O8: the word is stored as its two bytes at `PC` in a state about to fetch, and read back there. -/
theorem placedWordIsFetched : Obligations.PlacedWordIsFetched := by
  intro s w hpc hsorted
  have hw : BitVec.ofNat 16 (w.toNat % 2 ^ 16) = w := by
    rw [Nat.mod_eq_of_lt w.isLt, BitVec.ofNat_toNat, BitVec.setWidth_eq]
  have hplaced : s.withFetchWord 16 w.toNat = s.atFetch.writeBytes s.ms.pc.toNat (bytesOfWord w) := by
    rw [State.withFetchWord, hw]
    exact State.placeWord_of_le (s := s.atFetch) w hpc
  rw [hplaced]
  refine ⟨⟨⟨⟨rfl, .inr (.inl ⟨rfl, rfl⟩)⟩, rfl⟩, rfl, rfl, hpc⟩, ?_⟩
  have hread : ∀ k (hk : k < 2), (s.atFetch.writeBytes s.ms.pc.toNat (bytesOfWord w)).readByte (s.ms.pc.toNat + k) =
      (bytesOfWord w)[k] := fun k hk => State.readByte_writeBytes_inside _ _ k (bytesOfWord w) hsorted hk
  exact (congrArg₂ wordOfBytes (hread 0 (by decide)) (hread 1 (by decide))).trans (wordOfBytes_bytes w)

/-! ### The tick -/

theorem State.instrGateFires_iff (s : State) : s.instrGateFires = true ↔ s.cfg.pInstr ≤ s.now - s.lastInstr := by
  rw [State.instrGateFires, decide_eq_true_iff]

/-- Settles O9: S2 goes on to S3 by the gate alone, and S3 executes by the two flags alone. -/
theorem instructionTickGating : Obligations.InstructionTickGating := by
  intro s rest hm
  refine ⟨fun hp => ⟨_, step_s2 hm hp, ?gate⟩, fun hp => step_blocked ⟨hm, hp⟩, fun hp => step_executing ⟨hm, hp⟩⟩
  case gate =>
    simp only [State.subStep2, State.instrGateFires_iff]
    split
    · next hfires => exact ⟨iff_of_true rfl hfires, fun _ => rfl, rfl, rfl, rfl, rfl, rfl⟩
    · next hfires => exact ⟨iff_of_false nofun hfires, nofun, rfl, rfl, rfl, rfl, rfl⟩

/-- Settles O10: the check of the fetch comes first and raises the error. -/
theorem fetchOutsideMemoryIsFatal : Obligations.FetchOutsideMemoryIsFatal := by
  intro s rest ht hseen hwait hpc
  rw [step_executing ht hseen hwait]
  exact State.instrStep_of_lt (s := { s with turns := rest }) hpc

/-! ### The unrecognized word (R108) -/

theorem exec_unrecognized (w : Word) (s : State) : exec (.unrecognized w) s = .next s.advance := rfl

theorem describeWord_of_unrecognized {w : Word} (h : decode w = .unrecognized w) :
    describeWord w = "unknown/unimplemented instruction" := by
  rw [describeWord, (decode_eq_unrecognized_iff w).mp h, if_neg Bool.false_ne_true]

/-- Settles O13: the instruction is the advance alone, and its line is published like any other. -/
theorem unrecognizedWordIsNoOp : Obligations.UnrecognizedWordIsNoOp := by
  refine ⟨fun w s => ⟨s.advance, exec_unrecognized w s, rfl, rfl, fun _ => rfl⟩, fun w => describeWord_of_unrecognized, ?text,
    fun s rest hready hfetched => ?step⟩
  case text =>
    rw [TraceLine.text, describeWord_of_unrecognized (by decide)]
    decide
  case step =>
    obtain ⟨⟨⟨hrun, -⟩, -⟩, -⟩ := id hready
    rw [step_of_ready hready, hfetched, exec_unrecognized, mapNext, State.retire_eq, State.advance_runState, if_pos hrun]
    rfl

end Sys2Proof.Machine
end

section
/-! PROOFS. O49 to O51: the trace line's text, the publish section and the trace log (40_execution_cycle.md section 5,
60_exceptions.md section 4). -/

namespace Sys2Proof.Machine

/-! ### The text of a line (R109) -/

/-- The sixteen digits differ. -/
theorem hexDigit_inj {m n : Nat} (h : hexDigit m = hexDigit n) : m % 16 = n % 16 := by
  have hdigits : ∀ i j : Fin 16, hexDigits.getD i.val '0' = hexDigits.getD j.val '0' → i = j := by decide
  have hmod : ∀ k, k % 16 < 16 := fun k => Nat.mod_lt k (by decide)
  exact Fin.val_eq_of_eq (hdigits ⟨m % 16, hmod m⟩ ⟨n % 16, hmod n⟩ h)

/-- Four digits tell a 16-bit value. -/
theorem hex4_inj {v w : Word} (h : hex4 v = hex4 w) : v = w := by
  simp only [hex4, List.cons.injEq, and_true] at h
  obtain ⟨h3, h2, h1, h0⟩ := h
  have hv : v.toNat < 65536 := v.isLt
  have hw : w.toNat < 65536 := w.isLt
  have := hexDigit_inj h3
  have := hexDigit_inj h2
  have := hexDigit_inj h1
  have := hexDigit_inj h0
  apply BitVec.eq_of_toNat_eq
  omega

/-- The two numbers stand at fixed places of the text, before the description. -/
theorem TraceLine.text_inj {l m : TraceLine} (h : l.text = m.text) : l = m := by
  have hchars := String.ofList_injective h
  simp only [List.append_assoc] at hchars
  obtain ⟨hpc, hrest⟩ := List.append_inj hchars rfl
  obtain ⟨-, hrest⟩ := List.append_inj hrest rfl
  obtain ⟨hop, -⟩ := List.append_inj hrest rfl
  cases l
  cases m
  exact congrArg₂ TraceLine.mk (hex4_inj hpc) (hex4_inj hop)

/-- Settles O49: the digits alone tell the address and the word, whatever the description. -/
theorem traceTextDeterminesLine : Obligations.TraceTextDeterminesLine := fun _ _ =>
  ⟨TraceLine.text_inj, congrArg TraceLine.text⟩

/-! ### Publish (R259, R260) -/

theorem appendLine_eq (cap : Nat) (log : List TraceLine) (l : TraceLine) :
    appendLine cap log l = if log.length < cap then log ++ [l] else (log ++ [l]).tail := by
  rw [appendLine, List.length_append, List.length_singleton, List.drop_one]
  by_cases h : log.length < cap
  · rw [if_neg (by omega), if_pos h]
  · rw [if_pos (by omega), if_neg h]

theorem State.suppressed_iff (s : State) (l : TraceLine) :
    s.suppressed l = true ↔ s.ms.endloop = true ∧ s.snap.log.getLast? = some l := by
  rw [State.suppressed, Bool.and_eq_true, decide_eq_true_iff]

theorem State.publish_log_of_suppressed {s : State} {l : TraceLine} (h : s.suppressed l = true) :
    (s.publish l).snap.log = s.snap.log :=
  if_pos h

theorem State.publish_log_of_not_suppressed {s : State} {l : TraceLine} (h : ¬ s.suppressed l = true) :
    (s.publish l).snap.log = if s.snap.log.length < s.cfg.traceCap then s.snap.log ++ [l] else (s.snap.log ++ [l]).tail :=
  (if_neg h).trans (appendLine_eq _ _ _)

/-- Settles O50: suppression compares lines, which is to compare their texts. -/
theorem publishAppendsAndCopies : Obligations.PublishAppendsAndCopies := by
  refine fun s l => ⟨rfl, rfl, rfl, fun ⟨he, m, hm, htext⟩ => ?suppressed, fun h => ?appended⟩
  case suppressed =>
    obtain rfl := TraceLine.text_inj htext
    exact State.publish_log_of_suppressed ((s.suppressed_iff m).mpr ⟨he, hm⟩)
  case appended =>
    refine State.publish_log_of_not_suppressed fun hsupp => ?_
    obtain ⟨he, hl⟩ := (s.suppressed_iff l).mp hsupp
    obtain h | h := h
    · cases h.symm.trans he
    · exact h l hl rfl

/-! ### The log under one step -/

/-- What a publish leaves of the log: itself, or itself with one line more and at most the oldest dropped. -/
theorem State.publish_log_cases {s : State} (l : TraceLine) (hs : s.logOk) :
    (s.publish l).snap.log = s.snap.log ∨ (s.publish l).snap.log = s.snap.log ++ [l] ∨
      (s.snap.log.length = s.cfg.traceCap ∧ (s.publish l).snap.log = (s.snap.log ++ [l]).tail) := by
  by_cases h : s.suppressed l = true
  · exact .inl (State.publish_log_of_suppressed h)
  · rw [State.publish_log_of_not_suppressed h]
    split
    · exact .inr (.inl rfl)
    · next hfull => exact .inr (.inr ⟨Nat.le_antisymm hs (Nat.not_lt.mp hfull), rfl⟩)

/-- A completed instruction publishes into the log it found. -/
theorem State.completed_log (s : State) : s.completed.cfg = s.cfg ∧
    ∃ u : State, u.cfg = s.cfg ∧ u.snap = s.snap ∧ s.completed.snap.log = (u.publish s.line).snap.log := by
  have hcfg : (effect s.fetched s).cfg = s.cfg := by rw [effect_frame]
  have hsnap : (effect s.fetched s).snap = s.snap := by rw [effect_frame]
  exact ⟨hcfg, effect s.fetched s, hcfg, hsnap, rfl⟩

/-- Settles O51: only a completed instruction writes the log, by its publish. -/
theorem traceLogIsBoundedFifo : Obligations.TraceLogIsBoundedFifo := by
  refine ⟨rfl, rfl, fun s t hlen h => ?_⟩
  obtain ⟨hq, -⟩ | ⟨rest, -, -, -, ⟨code, op, info, -, rfl⟩ | ⟨-, -, rfl⟩⟩ := step_kinds h
  · rw [hq.cfg, hq.log]
    exact ⟨hlen, rfl, .inl rfl⟩
  · exact ⟨hlen, rfl, .inl rfl⟩
  · obtain ⟨hcfg, u, hucfg, husnap, hlog⟩ := State.completed_log { s with turns := rest }
    have hu : u.logOk := by
      rw [State.logOk, hucfg, husnap]
      exact hlen
    have hle := State.publish_log_length_le (State.line { s with turns := rest }) hu
    have hcases := State.publish_log_cases (State.line { s with turns := rest }) hu
    rw [hcfg, hlog]
    rw [hucfg] at hle
    rw [hucfg, husnap] at hcases
    refine ⟨hle, rfl, ?_⟩
    obtain hsame | hmore := hcases
    · exact .inl hsame
    · exact .inr ⟨_, hmore⟩

end Sys2Proof.Machine
end

section
/-! PROOFS. O52, O53, O60: the agents' turns (60_exceptions.md sections 3 to 5). -/

namespace Sys2Proof.Machine

/-! ### The step by whose turn it is -/

theorem step_host {s : State} {e : HostEvent} {rest : List Turn} (h : s.turns = .host e :: rest) :
    step s = .next { s with turns := rest, hostQueue := s.hostQueue ++ [e] } := by
  simp only [step, State.nextTurn, h]
  rfl

theorem step_elapse {s : State} {n : Nat} {rest : List Turn} (h : s.turns = .elapse n :: rest) :
    step s = .next { s with turns := rest, clock := s.clock + n } := by
  simp only [step, State.nextTurn, h]
  rfl

/-- An observer's turn, where no `stop()` of its holds it back (R262, R266). -/
theorem step_observer {s : State} {op : ObserverOp} {rest : List Turn} (h : s.turns = .observer op :: rest)
    (hb : s.stopCallerBlocked = false) : step s = .next ({ s with turns := rest }.observe op) := by
  simp only [step, State.nextTurn, h, State.holdsBack, hb]
  rfl

/-- The turn of a thread whose loop has ended passes (R268). -/
theorem step_thread_ended {s : State} {rest : List Turn} (h : s.turns = .thread :: rest) (hr : s.runState ≠ .running) :
    step s = .next { s with turns := rest } := by
  simp only [step, State.nextTurn, h]
  exact if_neg (mt (State.isRunning_iff { s with turns := rest }).mp hr)

/-- An ended loop with nobody to move is stuck (I17). -/
theorem step_stuck {s : State} (h : s.turns = []) (hr : s.runState ≠ .running) : step s = .fault .terminated := by
  simp only [step, State.nextTurn, h]
  exact if_neg (mt s.isRunning_iff.mp hr)

/-- Settles O60: each turn is the first listed one, and the running thread has the move in the three ways. -/
theorem turnsOfThreadHostAndClock : Obligations.TurnsOfThreadHostAndClock := fun _ _ =>
  ⟨step_of_threadMoves, step_thread_ended, fun _ => step_host, fun _ => step_elapse⟩

/-! ### An ended loop -/

/-- An operation on an ended machine changes the answer at most (R265, R266, R267). -/
theorem State.observe_of_ended {s : State} (op : ObserverOp) (hr : s.runState ≠ .running) :
    s.observe op = { s with reply := (s.observe op).reply } := by
  have hn : ¬ s.isRunning = true := mt s.isRunning_iff.mp hr
  cases op with
  | setPause b => rw [State.observe, State.setPause, if_neg hn]
  | stop => rw [State.observe, State.requestStop, if_neg hn]
  | readSnapshot => rfl

/-- Settles O53: of an ended loop's steps only an observer's reaches the Snapshot Record, and it does not write it. -/
theorem endedLoopStaysEnded : Obligations.EndedLoopStaysEnded := by
  refine fun s hr => ⟨fun h => step_stuck h hr, fun t h => ?_⟩
  obtain ⟨op, rest, -, -, rfl⟩ | ⟨e, rest, -, rfl⟩ | ⟨n, rest, -, rfl⟩ | ⟨rest, -, -, rfl⟩ | ⟨rest, ⟨hrun, -⟩, -⟩ := step_cases h
  · rw [State.observe_of_ended (s := { s with turns := rest }) op hr]
    exact ⟨rfl, rfl, rfl, rfl, rfl, rfl, rfl⟩
  · exact ⟨rfl, rfl, rfl, rfl, rfl, rfl, rfl⟩
  · exact ⟨rfl, rfl, rfl, rfl, rfl, rfl, rfl⟩
  · exact ⟨rfl, rfl, rfl, rfl, rfl, rfl, rfl⟩
  · exact absurd hrun hr

/-! ### The observer -/

/-- No sub-step of the thread takes a turn or does what the observer's operations do. -/
theorem State.threadStep_observer_frame {s t : State} (h : s.threadStep = .next t) :
    t.turns = s.turns ∧ t.snap.pause = s.snap.pause ∧ t.stopPending = s.stopPending ∧ t.reply = s.reply := by
  obtain ⟨-, rfl⟩ | ⟨-, rfl⟩ | ⟨-, rfl⟩ | ⟨-, -, rfl⟩ | ⟨-, -, -, -, rfl⟩ | ⟨-, -, -, -, u, hu, rfl⟩ :=
    State.threadStep_cases h
  · simp only [State.subStep1]
    split <;> exact ⟨rfl, rfl, rfl, rfl⟩
  · simp only [State.subStep2]
    split <;> exact ⟨rfl, rfl, rfl, rfl⟩
  · rw [State.subStep4_frame]
    exact ⟨rfl, rfl, rfl, rfl⟩
  · exact ⟨rfl, rfl, rfl, rfl⟩
  · exact ⟨rfl, rfl, rfl, rfl⟩
  · rw [State.retire_eq, exec_frame hu]
    split <;> exact ⟨rfl, rfl, rfl, rfl⟩

/-- `set_pause` on a machine (R265). -/
theorem State.observe_setPause (s : State) (b : Bool) :
    s.observe (.setPause b) =
      { s with snap := { s.snap with pause := if s.runState = .running then b else s.snap.pause } } := by
  by_cases hr : s.runState = .running
  · rw [if_pos hr]
    exact if_pos (s.isRunning_iff.mpr hr)
  · rw [if_neg hr]
    exact if_neg (mt s.isRunning_iff.mp hr)

/-- `stop()` on a machine (R266). -/
theorem State.observe_stop (s : State) :
    s.observe .stop = { s with stopPending := if s.runState = .running then true else s.stopPending } := by
  by_cases hr : s.runState = .running
  · rw [if_pos hr]
    exact if_pos (s.isRunning_iff.mpr hr)
  · rw [if_neg hr]
    exact if_neg (mt s.isRunning_iff.mp hr)

/-- The status is `run_state` with the pause flag told apart (R268). -/
theorem State.status_iff (s : State) :
    (s.status = .running ↔ s.runState = .running ∧ s.snap.pause = false) ∧
    (s.status = .paused ↔ s.runState = .running ∧ s.snap.pause = true) ∧
    (∀ r, s.status = .stopped r ↔ s.runState = .stopped r) ∧
    (∀ r, s.status = .faulted r ↔ s.runState = .faulted r) := by
  rw [State.status]
  cases s.runState with
  | running => cases s.snap.pause <;> simp
  | stopped r => simp
  | faulted r => simp

/-- Settles O52: while its `stop()` is pending the thread moves in the observer's place; otherwise the operation is made. -/
theorem observerOperations : Obligations.ObserverOperations := by
  refine fun s op rest hturns => ⟨fun hp hr => ?blocked, fun hfree => ?free⟩
  case blocked =>
    have hstep : step s = s.threadStep := step_of_threadMoves ⟨hr, .inr (.inr ⟨hp, rfl, op, rest, hturns⟩)⟩
    refine ⟨hstep, fun t ht => ?_⟩
    rw [← hp]
    exact State.threadStep_observer_frame (hstep ▸ ht)
  case free =>
    have hb : s.stopCallerBlocked = false := by
      rw [← Bool.not_eq_true, State.stopCallerBlocked_iff]
      rintro ⟨hp, hr⟩
      obtain h | h := hfree
      · cases h.symm.trans hp
      · exact h hr
    refine ⟨_, step_observer hturns hb, State.observe_frame { s with turns := rest } op, fun b hop => ?setPause,
      fun hop => ?stop, fun hop => ?readSnapshot⟩
    case setPause =>
      rw [hop, State.observe_setPause]
      exact ⟨rfl, rfl, rfl⟩
    case stop =>
      rw [hop, State.observe_stop]
      exact ⟨rfl, rfl, rfl⟩
    case readSnapshot =>
      rw [hop]
      exact ⟨rfl, rfl, _, rfl, rfl, rfl, s.status_iff⟩

end Sys2Proof.Machine
end

section
/-! PROOFS. O44 to O48: the key wait, the sub-steps and the poll (60_exceptions.md sections 2 and 3, 45_timers_keys.md
section 4). -/

namespace Sys2Proof.Machine

/-! ### The poll -/

/-- What a poll keeps, beside what `State.withLatch` names. -/
theorem State.pollEvents_keeps (s : State) (es : List HostEvent) :
    (s.pollEvents es).cfg = s.cfg ∧ (s.pollEvents es).ms = { s.ms with v := (s.pollEvents es).ms.v } ∧
      (s.pollEvents es).fb = s.fb ∧ (s.pollEvents es).snap = s.snap ∧ (s.pollEvents es).lastTimer = s.lastTimer ∧
      (s.pollEvents es).fbOut = s.fbOut ∧ (s.pollEvents es).hostQueue = s.hostQueue := by
  rw [State.pollEvents_frame]
  exact ⟨rfl, rfl, rfl, rfl, rfl, rfl, rfl⟩

/-- Events before the first quit are handled before the rest. -/
theorem State.pollEvents_append {before : List HostEvent} (hq : .quit ∉ before) (s : State) (after : List HostEvent) :
    s.pollEvents (before ++ after) = (s.pollEvents before).pollEvents after := by
  induction before generalizing s with
  | nil => rfl
  | cons e es ih =>
    rw [List.mem_cons, not_or] at hq
    obtain ⟨he, hes⟩ := hq
    cases e with
    | keyDown h => exact ih hes (s.keyDown h)
    | keyUp h => exact ih hes (s.keyUp h)
    | quit => exact absurd rfl he

/-- Settles O47: the poll is a fold over its events that a quit cuts short. -/
theorem quitDropsLaterEvents : Obligations.QuitDropsLaterEvents := fun s _ _ after =>
  ⟨rfl, rfl, rfl, fun hq => State.pollEvents_append hq s after, fun hq => State.pollEvents_append hq s (.quit :: after)⟩

/-! ### S1 and S2 -/

theorem periodMs_bounds {freq : Nat} (h : 0 < freq) :
    Config.periodMs freq * freq ≤ 1000 ∧ 1000 < (Config.periodMs freq + 1) * freq := by
  rw [Config.periodMs, if_neg h.ne']
  exact ⟨Nat.div_mul_le_self 1000 freq, Nat.mul_comm freq _ ▸ Nat.lt_mul_div_succ 1000 h⟩

/-- S1 as one update (R250, R266). -/
theorem State.subStep1_eq {s : State} (hr : s.runState = .running) (hp : s.phase = .s1) :
    s.subStep1 = { s with
      clock := s.clock + s.pace, now := s.clock + s.pace
      runState := if s.stopPending then .stopped .stopRequest else .running
      phase := if s.stopPending then .s1 else .s2 } := by
  rw [State.subStep1]
  split
  · rw [← hp]
    rfl
  · rw [← hr]
    rfl

/-- S2 with the gate's comparison as a sum, where the gate fired in the past (R251). -/
theorem State.subStep2_eq {s : State} (h : s.lastInstr ≤ s.now) :
    s.subStep2 = if s.lastInstr + s.cfg.pInstr ≤ s.now then
        { s with lastInstr := s.now, pausedSeen := s.snap.pause, phase := .s3 }
      else { s with phase := .s4 } :=
  if_congr (s.instrGateFires_iff.trans (Nat.le_sub_iff_add_le' h)) rfl rfl

/-- Settles O45: S1 and S2 are one update each, and a period is the quotient of 1000 by its rate. -/
theorem stopCheckAndInstructionGate : Obligations.StopCheckAndInstructionGate := by
  refine ⟨fun s rest hm => ⟨fun hp => ?s1, fun hp hlast => ?s2⟩, fun fInstr fTimer => ⟨periodMs_bounds, periodMs_bounds⟩⟩
  case s1 => rw [step_s1 hm hp, State.subStep1_eq (s := { s with turns := rest }) hm.1 hp]
  case s2 => rw [step_s2 hm hp, State.subStep2_eq (s := { s with turns := rest }) hlast]

/-! ### S4 -/

theorem State.subStep4_of_fires {s : State} (h : s.cfg.pTimer ≤ s.now - s.lastTimer) :
    s.subStep4 = { s.beforePoll.pollEvents s.hostQueue with phase := .s1 } :=
  s.subStep4_eq.trans (if_pos (decide_eq_true h))

theorem State.subStep4_of_not_fires {s : State} (h : ¬ s.cfg.pTimer ≤ s.now - s.lastTimer) :
    s.subStep4 = { s with phase := .s1 } :=
  s.subStep4_eq.trans (if_neg (by rw [State.timerGateFires, decide_eq_true_iff]; exact h))

/-- One tick of the two timers (R253). -/
theorem State.beforePoll_timers (s : State) :
    s.beforePoll.ms.dt.toNat = (if s.pausedSeen then s.ms.dt.toNat else s.ms.dt.toNat - 1) ∧
      s.beforePoll.ms.st.toNat = (if s.pausedSeen then s.ms.st.toNat else s.ms.st.toNat - 1) := by
  simp only [State.beforePoll, State.handOff, State.tickTimers]
  split
  · exact ⟨rfl, rfl⟩
  · exact ⟨countDown_toNat _, countDown_toNat _⟩

/-- S4 at a firing hands the framebuffer off and keeps it (R254). -/
theorem State.subStep4_fbOut_of_fires {s : State} (h : s.cfg.pTimer ≤ s.now - s.lastTimer) :
    s.subStep4.fbOut = some s.fb ∧ s.subStep4.fb = s.fb := by
  obtain ⟨-, -, hfb, -, -, hout, -⟩ := s.beforePoll.pollEvents_keeps s.hostQueue
  rw [State.subStep4_of_fires h]
  exact ⟨hout.trans (by rw [State.beforePoll_frame]), hfb.trans (by rw [State.beforePoll_frame])⟩

/-- Settles O46: at a firing S4 is the poll of the state whose timers were ticked and whose framebuffer was handed off. -/
theorem timerTick : Obligations.TimerTick := by
  refine fun s rest hm hp hlast => ⟨fun hlt => ?quiet, fun hle => ?fires⟩
  case quiet =>
    rw [step_s4 hm hp, State.subStep4_of_not_fires (s := { s with turns := rest })]
    show ¬ s.cfg.pTimer ≤ s.now - s.lastTimer
    omega
  case fires =>
    have hrun := hm.1
    obtain ⟨hdt, hst⟩ := State.beforePoll_timers { s with turns := rest }
    have hframe := State.beforePoll_frame { s with turns := rest }
    have hfires : s.cfg.pTimer ≤ s.now - s.lastTimer := by omega
    have hstep := State.subStep4_of_fires (s := { s with turns := rest }) hfires
    generalize State.beforePoll { s with turns := rest } = b at hdt hst hframe hstep
    obtain ⟨hcfg, hms, hfb, hsnap, htimer, hout, hqueue⟩ := b.pollEvents_keeps s.hostQueue
    have hend := b.pollEvents_runState s.hostQueue
    have hbrun : b.runState = .running := by rw [hframe, hrun]
    refine ⟨b.ms.dt, b.ms.st, _, (step_s4 hm hp).trans (congrArg Host.Outcome.next hstep), hdt, hst, ?poll, ?dt, ?st, ?timer,
      ?out, ?queue, ?fb, ?pc, ?snap, fun a => ?memory, ?quit, fun hq => ?going⟩
    case poll => exact congrArg (fun u => { State.pollEvents u s.hostQueue with phase := .s1 }) hframe
    case dt =>
      show (b.pollEvents s.hostQueue).ms.dt = _
      rw [hms]
    case st =>
      show (b.pollEvents s.hostQueue).ms.st = _
      rw [hms]
    case timer => exact htimer.trans (by rw [hframe])
    case out => exact hout.trans (by rw [hframe])
    case queue => exact hqueue.trans (by rw [hframe])
    case fb => exact hfb.trans (by rw [hframe])
    case pc =>
      show (b.pollEvents s.hostQueue).ms.pc = _
      rw [hms, hframe]
    case snap => exact hsnap.trans (by rw [hframe])
    case memory =>
      show Memory.read (b.pollEvents s.hostQueue).cfg.font (b.pollEvents s.hostQueue).ms.mem a = _
      rw [hcfg, hms, hframe, State.readByte]
    case quit =>
      show _ ↔ (b.pollEvents s.hostQueue).runState = _
      rw [hend, hbrun]
      split
      · next hq => exact iff_of_true hq rfl
      · next hq => exact iff_of_false hq nofun
    case going =>
      show (b.pollEvents s.hostQueue).runState = _
      rw [hend, if_neg hq, hbrun]

/-! ### The key wait (R100, R101, R222) -/

/-- S4 leaves the wait and the registers alone, or a matching key press of its poll resolves the wait. -/
theorem State.subStep4_latch (s : State) :
    (s.subStep4.wait = s.wait ∧ s.subStep4.ms.v = s.ms.v) ∨
      ∃ r h k, s.wait = .waiting r ∧ s.subStep4.wait = .idle ∧ .keyDown h ∈ s.hostQueue ∧
        keyOf s.cfg.keymap h = some k ∧ s.subStep4.ms.v = s.ms.v.set r.val (keyByte k) := by
  rw [State.subStep4_eq]
  split
  · have hw : s.beforePoll.wait = s.wait := by rw [State.beforePoll_frame]
    have hc : s.beforePoll.cfg = s.cfg := by rw [State.beforePoll_frame]
    have hv : s.beforePoll.ms.v = s.ms.v := by rw [State.beforePoll_frame]
    have hpoll := s.beforePoll.pollEvents_wait s.hostQueue
    rwa [hw, hc, hv] at hpoll
  · exact .inl ⟨rfl, rfl⟩

/-- While a key wait is pending, only S4 writes Machine State or the wait. -/
theorem step_of_waiting {s t : State} {r : Reg} (hw : s.wait = .waiting r) (h : step s = .next t) :
    (t.ms = s.ms ∧ t.wait = s.wait) ∨ (s.phase = .s4 ∧ ∃ rest, t = State.subStep4 { s with turns := rest }) := by
  have hbusy : s.wait ≠ .idle := by rw [hw]; nofun
  obtain ⟨op, rest, -, -, rfl⟩ | ⟨e, rest, -, rfl⟩ | ⟨n, rest, -, rfl⟩ | ⟨rest, -, -, rfl⟩ | ⟨rest, -, ht⟩ := step_cases h
  · rw [State.observe_frame]
    exact .inl ⟨rfl, rfl⟩
  · exact .inl ⟨rfl, rfl⟩
  · exact .inl ⟨rfl, rfl⟩
  · exact .inl ⟨rfl, rfl⟩
  · obtain ⟨-, rfl⟩ | ⟨-, rfl⟩ | ⟨hp, rfl⟩ | ⟨-, -, rfl⟩ | ⟨-, -, hidle, -⟩ | ⟨-, -, hidle, -⟩ := State.threadStep_cases ht
    · exact .inl ⟨by simp only [State.subStep1]; split <;> rfl, State.subStep1_wait _⟩
    · exact .inl ⟨by simp only [State.subStep2]; split <;> rfl, State.subStep2_wait _⟩
    · exact .inr ⟨hp, rest, rfl⟩
    · exact .inl ⟨rfl, rfl⟩
    · exact absurd hidle hbusy
    · exact absurd hidle hbusy

/-- Settles O44: a pending wait leaves no instruction tick, and what S4 writes is the poll's. -/
theorem waitBlocksInstructions : Obligations.WaitBlocksInstructions := by
  intro s r hw
  have hbusy : s.wait ≠ .idle := by rw [hw]; nofun
  refine ⟨fun rest hm hp => step_blocked ⟨hm, hp⟩ (.inr hbusy), fun t h => ?_⟩
  obtain ⟨hq, hfault⟩ | ⟨rest, -, -, hidle, -⟩ := step_kinds h
  · have hread : ∀ a, t.readByte a = s.readByte a := fun a => by rw [State.readByte, hq.cfg, hq.ms, State.readByte]
    refine ⟨hq.ms, fun hp => ?other, hread, hq.fb, hq.draws, hq.log, hq.pub, hfault, ?wait⟩
    all_goals obtain ⟨hms, hwait⟩ | ⟨hp4, rest, rfl⟩ := step_of_waiting hw h
    · exact hms
    · exact absurd hp4 hp
    · exact .inl ⟨hwait.trans hw, by rw [hms]⟩
    · obtain ⟨hwait, hv⟩ | ⟨r', h, k, hr, hidle, hmem, hk, hv⟩ := State.subStep4_latch { s with turns := rest }
      · exact .inl ⟨hwait.trans hw, hv⟩
      · obtain rfl : r' = r := Wait.waiting.inj (hr.symm.trans hw)
        have hreg : ∀ q, State.getV (State.subStep4 { s with turns := rest }) q =
            if q = r' then keyByte k else s.getV q := by
          intro q
          rw [← State.getV_setV, State.getV, hv]
          rfl
        exact .inr ⟨hidle, hp4, h, k, hmem, hk, by rw [hreg, if_pos rfl, keyByte_toNat],
          fun q hq => by rw [hreg, if_neg hq]⟩
  · exact absurd hidle hbusy

end Sys2Proof.Machine
end

section
/-! PROOFS. O48, O54: the framebuffer handoff and the key map, neither of which an instruction reads (60_exceptions.md
R254, 10_state.md R33). -/

namespace Sys2Proof.Machine

/-! ### What no instruction reads or writes -/

/-- The state with its key map and its last handed-off framebuffer replaced, each by a function of itself. -/
def State.rewire (k : Vector HostKey 16 → Vector HostKey 16) (g : Option Framebuffer → Option Framebuffer) (s : State) :
    State :=
  { s with cfg := { s.cfg with keymap := k s.cfg.keymap }, fbOut := g s.fbOut }

section
variable (k : Vector HostKey 16 → Vector HostKey 16) (g : Option Framebuffer → Option Framebuffer)

theorem faultOf_rewire (i : Instr) (s : State) : faultOf i (s.rewire k g) = faultOf i s := by
  cases i <;> rfl

theorem State.skipIf_rewire (s : State) (c : Bool) : (s.rewire k g).skipIf c = (s.skipIf c).rewire k g := by
  cases c <;> rfl

theorem State.push_rewire (s : State) (w : Word) : (s.rewire k g).push w = (s.push w).rewire k g := by
  simp only [State.push, apply_dite (State.rewire k g)]
  rfl

theorem State.popPc_rewire (s : State) : (s.rewire k g).popPc = s.popPc.rewire k g := by
  simp only [State.popPc, apply_dite (State.rewire k g)]
  rfl

theorem effect_rewire (i : Instr) (s : State) : effect i (s.rewire k g) = (effect i s).rewire k g := by
  cases i with
  | ret => exact s.advance.popPc_rewire k g
  | call nnn => exact congrArg (·.jump (addrWord nnn)) (s.advance.push_rewire k g _)
  | seImm | sneImm | seReg | sneReg | skp | sknp => exact s.advance.skipIf_rewire k g _
  | _ => rfl

/-- A change of the key map or of the handed-off framebuffer before an instruction is one after it. -/
theorem exec_rewire (i : Instr) (s : State) : exec i (s.rewire k g) = mapNext (State.rewire k g) (exec i s) := by
  cases hf : faultOf i s with
  | some e =>
    rw [exec_of_fault hf, exec_of_fault ((faultOf_rewire k g i s).trans hf)]
    rfl
  | none => rw [exec_of_noFault hf, exec_of_noFault ((faultOf_rewire k g i s).trans hf), effect_rewire, mapNext]

/-! ### The handoff -/

/-- Retiring an instruction commutes with such a change. -/
theorem State.retire_rewire (l : TraceLine) (t : State) :
    (t.rewire k g).retire l = (t.retire l).rewire k g := by
  rw [State.retire_eq, State.retire_eq, apply_ite (State.rewire k g)]
  rfl

theorem State.instrStep_rewire (s : State) : (s.rewire k g).instrStep = mapNext (State.rewire k g) s.instrStep := by
  by_cases hpc : s.ms.pc.toNat ≤ 0xFFE
  · have hexec := exec_rewire k g s.fetched s
    rw [State.instrStep_of_le hpc, State.instrStep_of_le (s := s.rewire k g) hpc]
    change mapNext (State.retire s.line) (exec s.fetched (s.rewire k g)) = _
    rw [hexec]
    cases exec s.fetched s with
    | next t => exact congrArg Host.Outcome.next (State.retire_rewire k g s.line t)
    | fault r => rfl
    | refused r => rfl
  · have hlt := Nat.lt_of_not_le hpc
    rw [State.instrStep_of_lt hlt, State.instrStep_of_lt (s := s.rewire k g) hlt]
    rfl

end

/-- Only S4 at a firing writes `fb_out` (R254). -/
theorem State.threadStep_fbOut {s t : State} (h : s.threadStep = .next t) (hne : t.fbOut ≠ s.fbOut) :
    s.phase = .s4 ∧ s.cfg.pTimer ≤ s.now - s.lastTimer ∧ t.fbOut = some s.fb := by
  obtain ⟨-, rfl⟩ | ⟨-, rfl⟩ | ⟨hp, rfl⟩ | ⟨-, -, rfl⟩ | ⟨-, -, -, -, rfl⟩ | ⟨-, -, -, -, u, hu, rfl⟩ :=
    State.threadStep_cases h
  · exact absurd (by simp only [State.subStep1]; split <;> rfl) hne
  · exact absurd (by simp only [State.subStep2]; split <;> rfl) hne
  · by_cases hfires : s.cfg.pTimer ≤ s.now - s.lastTimer
    · exact ⟨hp, hfires, (State.subStep4_fbOut_of_fires hfires).1⟩
    · exact absurd (by rw [State.subStep4_of_not_fires hfires]) hne
  · exact absurd rfl hne
  · exact absurd rfl hne
  · exact absurd (by rw [State.retire_frame, exec_frame hu]) hne

/-- Settles O48: the handoff is part of S4 at a firing, and no other part of a step touches `fb_out`. -/
theorem framebufferHandoff : Obligations.FramebufferHandoff := by
  refine ⟨fun s rest hm hp hfires => ?fires, fun s t h hne => ?only, fun i s f => exec_rewire id (fun _ => f) i s⟩
  case fires => exact ⟨_, step_s4 hm hp, State.subStep4_fbOut_of_fires (s := { s with turns := rest }) hfires⟩
  case only =>
    obtain ⟨op, rest, -, -, rfl⟩ | ⟨e, rest, -, rfl⟩ | ⟨n, rest, -, rfl⟩ | ⟨rest, -, -, rfl⟩ | ⟨rest, -, ht⟩ := step_cases h
    · exact absurd (by rw [State.observe_frame]) hne
    · exact absurd rfl hne
    · exact absurd rfl hne
    · exact absurd rfl hne
    · exact State.threadStep_fbOut (s := { s with turns := rest }) ht hne

/-! ### The key map -/

/-- Every step keeps the parameters (R10, R33). -/
theorem step_cfg {s t : State} (h : step s = .next t) : t.cfg = s.cfg := by
  obtain ⟨hq, -⟩ | ⟨rest, -, -, -, ⟨code, op, info, -, rfl⟩ | ⟨-, -, rfl⟩⟩ := step_kinds h
  · exact hq.cfg
  · rfl
  · exact (State.completed_log { s with turns := rest }).1

section
variable (k : Vector HostKey 16 → Vector HostKey 16)

theorem State.observe_rewire (s : State) (op : ObserverOp) : (s.rewire k id).observe op = (s.observe op).rewire k id := by
  cases op with
  | setPause b =>
    rw [State.observe_setPause, State.observe_setPause]
    rfl
  | stop =>
    rw [State.observe_stop, State.observe_stop]
    rfl
  | readSnapshot => rfl

/-- A sub-step that handles no host events does not read the key map. -/
theorem State.threadStep_rewire {s : State} (h : s.phase = .s4 → s.now - s.lastTimer < s.cfg.pTimer) :
    (s.rewire k id).threadStep = mapNext (State.rewire k id) s.threadStep := by
  have hphase : (s.rewire k id).phase = s.phase := rfl
  simp only [State.threadStep, hphase]
  cases hp : s.phase with
  | s1 =>
    refine congrArg Host.Outcome.next ?_
    rw [State.subStep1, State.subStep1, apply_ite (State.rewire k id)]
    rfl
  | s2 =>
    refine congrArg Host.Outcome.next ?_
    rw [State.subStep2, State.subStep2, apply_ite (State.rewire k id)]
    rfl
  | s3 =>
    show (s.rewire k id).subStep3 = mapNext (State.rewire k id) s.subStep3
    rw [State.subStep3, State.subStep3, apply_ite (mapNext (State.rewire k id)), State.instrStep_rewire]
    rfl
  | s4 =>
    have hlt := Nat.not_le.mpr (h hp)
    refine congrArg Host.Outcome.next ?_
    rw [State.subStep4_of_not_fires hlt, State.subStep4_of_not_fires (s := s.rewire k id) hlt]
    rfl

/-- A step that handles no host events does not read the key map. -/
theorem step_rewire {s : State}
    (h : ∀ rest, s.threadMoves rest → s.phase = .s4 → s.now - s.lastTimer < s.cfg.pTimer) :
    step (s.rewire k id) = mapNext (State.rewire k id) (step s) := by
  by_cases hm : ∃ rest, s.threadMoves rest
  · obtain ⟨rest, hm⟩ := hm
    have hm' : (s.rewire k id).threadMoves rest := hm
    rw [step_of_threadMoves hm, step_of_threadMoves hm']
    exact State.threadStep_rewire k (s := { s with turns := rest }) (h rest hm)
  · have hturns : (s.rewire k id).turns = s.turns := rfl
    have hended : s.turns = [] ∨ (∃ rest, s.turns = .thread :: rest) → s.runState ≠ .running := by
      rintro (hs | ⟨rest, hs⟩) hr
      · exact hm ⟨[], hr, .inr (.inl ⟨hs, rfl⟩)⟩
      · exact hm ⟨rest, hr, .inl hs⟩
    cases hs : s.turns with
    | nil =>
      have hr := hended (.inl hs)
      rw [step_stuck hs hr, step_stuck (s := s.rewire k id) hs hr, mapNext]
    | cons turn rest =>
      cases turn with
      | thread =>
        have hr := hended (.inr ⟨rest, hs⟩)
        rw [step_thread_ended hs hr, step_thread_ended (s := s.rewire k id) hs hr]
        rfl
      | observer op =>
        have hb : s.stopCallerBlocked = false := by
          rw [← Bool.not_eq_true, State.stopCallerBlocked_iff]
          exact fun ⟨hp, hr⟩ => hm ⟨s.turns, hr, .inr (.inr ⟨hp, rfl, op, rest, hs⟩)⟩
        rw [step_observer hs hb, step_observer (s := s.rewire k id) hs hb]
        exact congrArg Host.Outcome.next (State.observe_rewire k { s with turns := rest } op)
      | host e =>
        rw [step_host hs, step_host (s := s.rewire k id) hs]
        rfl
      | elapse n =>
        rw [step_elapse hs, step_elapse (s := s.rewire k id) hs]
        rfl

end

/-- A machine that was started is the one `boot` builds (R300, R302). -/
theorem start_eq_started {K : Type} [DecidableEq K] {cfg : Config} {hostOk : Bool} {program : List Byte}
    {keymap : Vector K 16} {s : State} (h : State.start cfg hostOk program keymap = .started s) :
    s = State.boot cfg program (heldKeymap keymap) := by
  rw [State.start] at h
  split at h
  · cases h
  · exact (StartResult.started.inj h).symm

/-- Settles O54: `boot` takes the key map from its argument, no step writes it, and only the poll reads it. -/
theorem keymapIsImmutable : Obligations.KeymapIsImmutable := by
  refine ⟨fun _ _ _ => rfl, fun K _ cfg program keymap s h => ?_, fun s t => step_cfg,
    fun i s km => exec_rewire (fun _ => km) id i s, fun s km h => step_rewire (fun _ => km) h⟩
  rw [start_eq_started h]
  rfl

end Sys2Proof.Machine
end

section
/-! PROOFS. O55 to O57: start and reset (70_reset_and_hazards.md section 1). -/

namespace Sys2Proof.Machine

/-! ### start -/

theorem start_eq_setupFailed_iff {K : Type} [DecidableEq K] (cfg : Config) (hostOk : Bool) (program : List Byte)
    (keymap : Vector K 16) :
    State.start cfg hostOk program keymap = .setupFailed ↔ 0xE00 < program.length ∨ hostOk = false := by
  rw [State.start]
  split
  · next h => exact iff_of_true rfl h
  · next h => exact iff_of_false nofun h

theorem start_of_fits {K : Type} [DecidableEq K] (cfg : Config) {program : List Byte} (keymap : Vector K 16)
    (h : program.length ≤ 0xE00) :
    State.start cfg true program keymap = .started (State.boot cfg program (heldKeymap keymap)) := by
  rw [State.start, if_neg]
  rintro (hlong | hfail)
  · exact absurd hlong (Nat.not_lt.mpr h)
  · cases hfail

/-- What the loaded image reads as (R300). -/
theorem boot_readByte (cfg : Config) (program : List Byte) (keymap : Vector HostKey 16) :
    (∀ k (h : k < program.length), (State.boot cfg program keymap).readByte (0x200 + k) = program[k]) ∧
      ∀ a, (a < 0x200 ∨ 0x200 + program.length ≤ a) →
        (State.boot cfg program keymap).readByte a = Memory.unlisted cfg.font a :=
  ⟨fun k h => Memory.read_writeBytes_inside cfg.font [] progBase k program List.Pairwise.nil h,
    fun a h => Memory.read_writeBytes_outside cfg.font [] progBase a program h⟩

theorem boot_memoryOk (cfg : Config) {program : List Byte} (keymap : Vector HostKey 16) (h : program.length ≤ 0xE00) :
    (State.boot cfg program keymap).memoryOk := by
  have hwf : (MachineState.load cfg.font program).mem.wf cfg.font := by
    refine Memory.wf_writeBytes _ _ _ _ (Memory.wf_nil _) ?_
    rw [progBase, memSize]
    omega
  exact ⟨hwf, hwf⟩

/-- Settles O55: `start` fails on its two conditions, and otherwise answers the machine `boot` builds. -/
theorem startLoadsImage : Obligations.StartLoadsImage := by
  refine fun K _ cfg hostOk program keymap => ⟨start_eq_setupFailed_iff cfg hostOk program keymap, fun hlen hok => ?_, ?_⟩
  · obtain ⟨himage, hrest⟩ := boot_readByte cfg program (heldKeymap keymap)
    rw [hok]
    refine ⟨_, start_of_fits cfg keymap hlen, himage, fun a ha => ?font, fun a hlow hout => ?zero, rfl,
      boot_memoryOk cfg _ hlen⟩
    case font => rw [hrest a (.inl (by omega)), Memory.unlisted, dif_pos ha]
    case zero => rw [hrest a hout, Memory.unlisted, dif_neg (Nat.not_lt.mpr hlow)]
  · have hkeymap : heldKeymap Config.default.keymap = Config.default.keymap := by decide
    rw [start_of_fits Config.default Config.default.keymap (by decide), hkeymap]
    rfl

/-! ### Reset -/

/-- Settles O56: the fields of `State.reset`, whose vectors hold one value at every index. -/
theorem resetValues : Obligations.ResetValues := by
  refine ⟨rfl, rfl, fun r => ?regs, rfl, fun k => ?slots, rfl, rfl, rfl, Framebuffer.cell_blank, fun k => ?keys, rfl, rfl,
    rfl, rfl, rfl, rfl, rfl, fun _ => rfl, rfl, rfl, rfl, rfl⟩
  case regs => exact Vector.getElem_replicate r.isLt
  case slots => exact Vector.getElem_replicate k.isLt
  case keys => exact Vector.getElem_replicate k.isLt

/-- Settles O57: memory lists nothing, the log is empty, and `endloop` is not set. -/
theorem invariantAtReset : Obligations.InvariantAtReset := by
  refine ⟨⟨Memory.wf_nil _, Memory.wf_nil _⟩, Nat.zero_le _, ⟨by decide, fun k => ?slots⟩, ⟨le_rfl, le_rfl, le_rfl⟩, nofun⟩
  case slots =>
    have hslot : State.reset.slot k = 0 := Vector.getElem_replicate k.isLt
    rw [hslot]
    decide

end Sys2Proof.Machine
end
